-- ==== Sys2Proof/Word.lean ====
section
/-! DEFINITION. The plain values of the machine: cells, words, register numbers, the flag triple,
the second operand of an instruction and the outcome of a comparison. -/

namespace Sys2Proof

/-- A cell: a 64-bit pattern with no type (R9, R20, R50). -/
abbrev Cell := BitVec 64

/-- An instruction word, the same size as a cell (R80). -/
abbrev Word := BitVec 64

/-- The byte that PUTC sends and GETC receives (R53). -/
abbrev Byte := BitVec 8

/-- A register index 0 to 15, the value of a 4-bit register field (R95). -/
abbrev Reg := BitVec 4

/-- The 32-bit payload of a word (R90). -/
abbrev Imm := BitVec 32

/-- The triple (n, z, p): the state flags `cc` (R28), and the request flags
`(rn, rz, rp)` of an instruction (R94). -/
structure CC where
  n : Bool
  z : Bool
  p : Bool
  deriving DecidableEq, Repr

/-- The triple with no flag set. -/
def CC.none : CC := ⟨false, false, false⟩

/-- At most one of the three flags is set (R32). -/
def CC.atMostOne (c : CC) : Bool :=
  !(c.n && c.z) && !(c.n && c.p) && !(c.z && c.p)

/-- The second operand of an instruction as the assembler writes it (R120): a register
(`sr2`) or a 32-bit immediate. -/
inductive Operand where
  | reg (r : Reg)
  | imm (v : Imm)
  deriving DecidableEq, Repr

/-- Whether the operand is an immediate. -/
def Operand.isImm : Operand → Bool
  | .reg _ => false
  | .imm _ => true

/-- The ordering of a first operand against a second, as the CCU's `cc_ord` distinguishes it
(R130, R152). -/
inductive CmpOrder where
  | less
  | equal
  | greater
  | unordered
  deriving DecidableEq, Repr

/-- FP register of the calling convention, R13, hard-wired in LDFP and STFP (R22). -/
def Reg.fp : Reg := 13#4

/-- Stack pointer, R14, hard-wired in PUSH, POP, LDSP and STSP (R22). -/
def Reg.sp : Reg := 14#4

/-- Link register, R15, hard-wired in CALL and RET (R22). -/
def Reg.lr : Reg := 15#4

end Sys2Proof
end

