-- ==== Sys2Proof/Config.lean ====
section
/-! DEFINITION. What an implementation fixes: the enumeration of the operation codes, the record of
the parameters of R7, and the free values (opaque constants: nothing in Lean can evaluate them).
The spec's default values of the parameters are in `Sys2Proof/Decode.lean` (`Config.default`). -/

namespace Sys2Proof

/-- The closed enumeration of the 42 operation codes, by this spec's mnemonics, in the order of
the family table (R100). The 6-bit number of each is the parameter `OPC` (R101). -/
inductive Op where
  | addI
  | subI
  | mulI
  | divI
  | addF
  | subF
  | mulF
  | divF
  | negI
  | negF
  | and
  | or
  | xor
  | not
  | bnot
  | shl
  | shr
  | cmpI
  | cmpF
  | itof
  | ftoi
  | ldr
  | str
  | push
  | pop
  | ldsp
  | stsp
  | ldfp
  | stfp
  | ldap
  | stap
  | jmp
  | ld
  | st
  | ldi
  | sti
  | call
  | ret
  | putc
  | getc
  | nop
  | halt
  deriving DecidableEq, Repr

/-- `ILLEGAL_POLICY`: what the machine does with an unassigned opcode (R110, D11). -/
inductive IllegalPolicy where
  | skip
  | trap
  deriving DecidableEq, Repr

/-- `INT_OVERFLOW`: what ADD.I, SUB.I, MUL.I and NEG.I do on signed overflow (R200, D12). -/
inductive OverflowPolicy where
  | wrap
  | trap
  deriving DecidableEq, Repr

/-- `SHIFT_AMOUNT` (R222, D14): the low six bits, or some other count for operands over 63, of
which the spec says nothing. -/
inductive ShiftAmount where
  | lowSix
  | other
  deriving DecidableEq, Repr

/-- `GETC_EOF` (R341, U13): at the end of input GETC blocks for ever, or the form is refused. -/
inductive EofPolicy where
  | block
  | refuse
  deriving DecidableEq, Repr

/-- The column 56:53 of R105: no register, the register written (`dr`) or read (`sr3`). -/
inductive Use56 where
  | unused
  | write
  | read
  deriving DecidableEq, Repr

/-- The column payload of R105: `-`, `B` (chosen by `immf`), `S` (`sr2`), `I` (the immediate). That an
opcode of `IMM_HONOURED` chooses by `immf` under `S` and `I` too is R93 and R113. -/
inductive UsePayload where
  | unused
  | byFlag
  | sr2
  | imm
  deriving DecidableEq, Repr

/-- A row of the field-use table `USES`: which fields of the word an opcode uses (R105). -/
structure UseRow where
  f56 : Use56
  sr1 : Bool
  payload : UsePayload
  req : Bool
  deriving DecidableEq, Repr

/-- The row of an opcode that uses no field. -/
def UseRow.none : UseRow := ⟨.unused, false, .unused, false⟩

/-- The column cc of R105, the source of a flag write: `int`, the result cell, or `ord`, an ordering
(R107). -/
inductive CcSource where
  | int
  | ord
  deriving DecidableEq, Repr

/-- The rounding of the record `FP`: to nearest with ties to even, the spec's default (R202), or one
of the other four rounding directions of IEEE-754 (log entry 14). -/
inductive Rounding where
  | nearestEven
  | nearestAway
  | towardZero
  | towardPositive
  | towardNegative
  deriving DecidableEq, Repr

/-- A result of `FP` that R7 leaves to the record: any value, or one fixed cell. -/
inductive OpenResult where
  | any
  | fixed (c : Cell)
  deriving DecidableEq, Repr

/-- The floating-point numerics record `FP` (R7, R202, R244, D15). -/
structure FpConfig where
  /-- The rounding of a result that is not exact (R202). -/
  rounding : Rounding
  /-- The NaN that an invalid operation gives (R202, U7); a fixed cell is made a NaN by `nanOf`. -/
  nanResult : OpenResult
  /-- `FP.ftoi_special` (R244, U8). -/
  ftoiSpecial : OpenResult
  deriving DecidableEq, Repr

/-- The implementation parameters of R7, as plain data. They are fixed for a machine: no step
changes them. A statement about every state is a statement about every choice of them. -/
structure Config where
  /-- `MEM_CELLS`, the number of cells of memory (R50, D16). -/
  memCells : Nat
  /-- `AP_REG`, the index of the argument pointer (R265, D17); over 15 it names no register (R23). -/
  apReg : Nat
  /-- `OPC`, the 6-bit number of each opcode, in the order of `Op.all` (R101, D1). -/
  opc : List (BitVec 6)
  /-- `USES`, the field-use table, a row for each opcode in the order of `Op.all` (R105, D4). -/
  uses : List UseRow
  /-- `IMM_HONOURED`, the opcodes whose second operand `immf` chooses (R106, D5). -/
  immHonoured : List Op
  /-- `CC_WRITERS`, the opcodes that write the flags, with the source of the new value (R107, D7). -/
  ccWriters : List (Op × CcSource)
  /-- `UNORDERED_CC`, the flags after CMP.F with a NaN operand (R152, D8). -/
  unorderedCC : CC
  /-- `CC_RESET`, the flags after reset (R33, D10). -/
  ccReset : CC
  /-- `ILLEGAL_POLICY` (R110, D11). -/
  illegalPolicy : IllegalPolicy
  /-- `INT_OVERFLOW` (R200, D12). -/
  intOverflow : OverflowPolicy
  /-- `SHIFT_AMOUNT` (R222, D14). -/
  shiftAmount : ShiftAmount
  /-- `FP` (R202, D15). -/
  fp : FpConfig
  /-- `GETC_EOF` (R341, D22). -/
  getcEof : EofPolicy
  deriving DecidableEq, Repr

/-- The row of `USES` for an opcode (R105); an opcode past the end of the table uses no field. -/
def Config.usesOf (c : Config) (op : Op) : UseRow := c.uses.getD op.ctorIdx UseRow.none

/-- Whether `immf` chooses the second operand of an opcode: it is in `IMM_HONOURED` and its row of
`USES` has a payload (R93, R106). -/
def Config.flagChooses (c : Config) (op : Op) : Bool :=
  (c.usesOf op).payload != .unused && c.immHonoured.contains op

/-- FREE VALUE: the bits drawn for the `n`-th value that the spec leaves open: the sign and
payload of a NaN result (R202, U7) and `FP.ftoi_special` (R244, U8). Log entries 12 and 13. -/
opaque Config.freeCell : Nat → Cell

/-- FREE VALUE: what the memory cell with this index holds while nothing has written it
(`MEM_RESET`: R39, U14). Log entry 2. -/
opaque Config.memReset : Nat → Cell

/-- FREE VALUE: the shift count for a count operand over 63 where `SHIFT_AMOUNT` is not the low
six bits (R222, U6). Log entry 15. -/
opaque Config.otherShiftCount : Cell → Nat

/-- FREE VALUE: the port value `cc_ord` of an opcode that compares nothing, for its result, where the
configured `CC_WRITERS` has it write the flags from an ordering (R107). Log entry 16. -/
opaque Config.resultOrder : Op → Cell → BitVec 2

end Sys2Proof
end

