-- ==== Sys2Proof/Syntax.lean ====
section
/-! DEFINITION. The instructions: one constructor for each row of the opcode table, with the fields
that R105 says the opcode uses. `rd` is the register of `dr`, `rs` that of `sr3`, `ra` that of `sr1`,
`b` the second operand `B`, the offset of a jump and of a memory instruction among them, and `req` the
request flags (R11, R12). By default the `B` of a floating-point opcode is always a register and the
offset of LDSP to STI and JMP always an immediate (R105, R106); `Instr.wellFormed` says which forms the
parameters allow. -/

namespace Sys2Proof

/-- A decoded instruction (R100). -/
inductive Instr where
  /-- `ADD.I Rd, Ra, Rb | ADD.I Rd, Ra, #v`: Integer/float arithmetic (R204, `41_arithmetic.md`). -/
  | addI (rd ra : Reg) (b : Operand)
  /-- `SUB.I Rd, Ra, Rb | SUB.I Rd, Ra, #v`: Integer/float arithmetic (R205, `41_arithmetic.md`). -/
  | subI (rd ra : Reg) (b : Operand)
  /-- `MUL.I Rd, Ra, Rb | MUL.I Rd, Ra, #v`: Integer/float arithmetic (R206, `41_arithmetic.md`). -/
  | mulI (rd ra : Reg) (b : Operand)
  /-- `DIV.I Rd, Ra, Rb | DIV.I Rd, Ra, #v`: Integer/float arithmetic (R207, `41_arithmetic.md`). -/
  | divI (rd ra : Reg) (b : Operand)
  /-- `ADD.F Rd, Ra, Rb`: Integer/float arithmetic (R209, `41_arithmetic.md`). -/
  | addF (rd ra : Reg) (b : Operand)
  /-- `SUB.F Rd, Ra, Rb`: Integer/float arithmetic (R210, `41_arithmetic.md`). -/
  | subF (rd ra : Reg) (b : Operand)
  /-- `MUL.F Rd, Ra, Rb`: Integer/float arithmetic (R211, `41_arithmetic.md`). -/
  | mulF (rd ra : Reg) (b : Operand)
  /-- `DIV.F Rd, Ra, Rb`: Integer/float arithmetic (R212, `41_arithmetic.md`). -/
  | divF (rd ra : Reg) (b : Operand)
  /-- `NEG.I Rd, Ra`: Integer/float arithmetic (R208, `41_arithmetic.md`). -/
  | negI (rd ra : Reg)
  /-- `NEG.F Rd, Ra`: Integer/float arithmetic (R213, `41_arithmetic.md`). -/
  | negF (rd ra : Reg)
  /-- `AND Rd, Ra, Rb | AND Rd, Ra, #v`: Bitwise/boolean (R223, `42_bitwise_shift.md`). -/
  | and (rd ra : Reg) (b : Operand)
  /-- `OR Rd, Ra, Rb | OR Rd, Ra, #v`: Bitwise/boolean (R224, `42_bitwise_shift.md`). -/
  | or (rd ra : Reg) (b : Operand)
  /-- `XOR Rd, Ra, Rb | XOR Rd, Ra, #v`: Bitwise/boolean (R225, `42_bitwise_shift.md`). -/
  | xor (rd ra : Reg) (b : Operand)
  /-- `NOT Rd, Ra`: Bitwise/boolean (R226, `42_bitwise_shift.md`). -/
  | not (rd ra : Reg)
  /-- `BNOT Rd, Ra`: Bitwise/boolean (R227, `42_bitwise_shift.md`). -/
  | bnot (rd ra : Reg)
  /-- `SHL Rd, Ra, Rb | SHL Rd, Ra, #v`: Shift (R228, `42_bitwise_shift.md`). -/
  | shl (rd ra : Reg) (b : Operand)
  /-- `SHR Rd, Ra, Rb | SHR Rd, Ra, #v`: Shift (R229, `42_bitwise_shift.md`). -/
  | shr (rd ra : Reg) (b : Operand)
  /-- `CMP.I{nzp} Rd, Ra, Rb | CMP.I{nzp} Rd, Ra, #v`: Compare (R240, `43_compare_convert.md`). -/
  | cmpI (req : CC) (rd ra : Reg) (b : Operand)
  /-- `CMP.F{nzp} Rd, Ra, Rb`: Compare (R241, `43_compare_convert.md`). -/
  | cmpF (req : CC) (rd ra : Reg) (b : Operand)
  /-- `ITOF Rd, Ra`: Conversion (R243, `43_compare_convert.md`). -/
  | itof (rd ra : Reg)
  /-- `FTOI Rd, Ra`: Conversion (R244, `43_compare_convert.md`). -/
  | ftoi (rd ra : Reg)
  /-- `LDR Rd, [Ra + Rb] | LDR Rd, [Ra + #v]`: Indexed memory (R261, `44_indexed_stack_frame.md`). -/
  | ldr (rd ra : Reg) (b : Operand)
  /-- `STR Rs, [Ra + Rb] | STR Rs, [Ra + #v]`: Indexed memory (R262, `44_indexed_stack_frame.md`). -/
  | str (rs ra : Reg) (b : Operand)
  /-- `PUSH Rs`: Stack (R263, `44_indexed_stack_frame.md`). -/
  | push (rs : Reg)
  /-- `POP Rd`: Stack (R264, `44_indexed_stack_frame.md`). -/
  | pop (rd : Reg)
  /-- `LDSP Rd, #v`: Frame/arg relative (R266, `44_indexed_stack_frame.md`). -/
  | ldsp (rd : Reg) (b : Operand)
  /-- `STSP Rs, #v`: Frame/arg relative (R267, `44_indexed_stack_frame.md`). -/
  | stsp (rs : Reg) (b : Operand)
  /-- `LDFP Rd, #v`: Frame/arg relative (R268, `44_indexed_stack_frame.md`). -/
  | ldfp (rd : Reg) (b : Operand)
  /-- `STFP Rs, #v`: Frame/arg relative (R269, `44_indexed_stack_frame.md`). -/
  | stfp (rs : Reg) (b : Operand)
  /-- `LDAP Rd, #v`: Frame/arg relative (R270, `44_indexed_stack_frame.md`). -/
  | ldap (rd : Reg) (b : Operand)
  /-- `STAP Rs, #v`: Frame/arg relative (R271, `44_indexed_stack_frame.md`). -/
  | stap (rs : Reg) (b : Operand)
  /-- `JMP{nzp} #v`: Control transfer (R290, `45_jump.md`). -/
  | jmp (req : CC) (b : Operand)
  /-- `LD Rd, #v`: PC-relative memory (R301, `46_pcrel_memory.md`). -/
  | ld (rd : Reg) (b : Operand)
  /-- `ST Rs, #v`: PC-relative memory (R302, `46_pcrel_memory.md`). -/
  | st (rs : Reg) (b : Operand)
  /-- `LDI Rd, #v`: PC-relative memory (R303, `46_pcrel_memory.md`). -/
  | ldi (rd : Reg) (b : Operand)
  /-- `STI Rs, #v`: PC-relative memory (R304, `46_pcrel_memory.md`). -/
  | sti (rs : Reg) (b : Operand)
  /-- `CALL Ra`: Call/return (R320, `47_call_return.md`). -/
  | call (ra : Reg)
  /-- `RET`: Call/return (R321, `47_call_return.md`). -/
  | ret
  /-- `PUTC Ra`: I/O (R340, `48_io_nop_halt.md`). -/
  | putc (ra : Reg)
  /-- `GETC Rd`: I/O (R341, `48_io_nop_halt.md`). -/
  | getc (rd : Reg)
  /-- `NOP`: No-op / halt (R345, `48_io_nop_halt.md`). -/
  | nop
  /-- `HALT`: No-op / halt (R346, `48_io_nop_halt.md`). -/
  | halt
  deriving DecidableEq, Repr

end Sys2Proof
end

