-- ==== Sys2Proof/WellFormed.lean ====
section
/-! DEFINITION. Which instructions, and which choices of the parameters, are well formed: an
instruction is where the configured `USES` and `IMM_HONOURED` give its opcode every field that the
operands need (R105, R106). No word of an assigned opcode is illegal (R111); what is ill formed is a
term that no word stands for, by default only a floating-point opcode with an immediate and a jump or
an offset access with a register. -/

namespace Sys2Proof

/-- The operation code of an instruction (R102). -/
def Instr.op : Instr → Op
  | .addI _ _ _ => .addI
  | .subI _ _ _ => .subI
  | .mulI _ _ _ => .mulI
  | .divI _ _ _ => .divI
  | .addF _ _ _ => .addF
  | .subF _ _ _ => .subF
  | .mulF _ _ _ => .mulF
  | .divF _ _ _ => .divF
  | .negI _ _ => .negI
  | .negF _ _ => .negF
  | .and _ _ _ => .and
  | .or _ _ _ => .or
  | .xor _ _ _ => .xor
  | .not _ _ => .not
  | .bnot _ _ => .bnot
  | .shl _ _ _ => .shl
  | .shr _ _ _ => .shr
  | .cmpI _ _ _ _ => .cmpI
  | .cmpF _ _ _ _ => .cmpF
  | .itof _ _ => .itof
  | .ftoi _ _ => .ftoi
  | .ldr _ _ _ => .ldr
  | .str _ _ _ => .str
  | .push _ => .push
  | .pop _ => .pop
  | .ldsp _ _ => .ldsp
  | .stsp _ _ => .stsp
  | .ldfp _ _ => .ldfp
  | .stfp _ _ => .stfp
  | .ldap _ _ => .ldap
  | .stap _ _ => .stap
  | .jmp _ _ => .jmp
  | .ld _ _ => .ld
  | .st _ _ => .st
  | .ldi _ _ => .ldi
  | .sti _ _ => .sti
  | .call _ => .call
  | .ret => .ret
  | .putc _ => .putc
  | .getc _ => .getc
  | .nop => .nop
  | .halt => .halt

/-- A register in bits 56:53 needs a row that uses them (R105). -/
def namedOk (c : Config) (op : Op) (r : Reg) : Bool :=
  (c.usesOf op).f56 != .unused || r == 0#4

/-- A first source register needs a row that uses `sr1` (R105). -/
def firstOk (c : Config) (op : Op) (r : Reg) : Bool := (c.usesOf op).sr1 || r == 0#4

/-- The one register of PUSH, CALL or PUTC is read from bits 56:53 or from `sr1` (R105, D4). -/
def sourceOk (c : Config) (op : Op) (r : Reg) : Bool :=
  (c.usesOf op).f56 == .read || (c.usesOf op).sr1 || r == 0#4

/-- The second operand has a form that the row and `IMM_HONOURED` give the opcode: either where `immf`
chooses, else the one of the payload column (R93, R105, R106). -/
def operandOk (c : Config) (op : Op) (b : Operand) : Bool :=
  c.flagChooses op ||
    match (c.usesOf op).payload with
    | .unused => b == .reg 0#4
    | .byFlag => !b.isImm
    | .sr2 => !b.isImm
    | .imm => b.isImm

/-- A request needs a row that uses the request flags (R105). -/
def reqOk (c : Config) (op : Op) (q : CC) : Bool := (c.usesOf op).req || q == CC.none

/-- Whether a word for the instruction exists under the parameters `c` (R93, R105, R106, R111). -/
def Instr.wellFormed (c : Config) : Instr → Bool
  | .addI rd ra b => namedOk c .addI rd && firstOk c .addI ra && operandOk c .addI b
  | .subI rd ra b => namedOk c .subI rd && firstOk c .subI ra && operandOk c .subI b
  | .mulI rd ra b => namedOk c .mulI rd && firstOk c .mulI ra && operandOk c .mulI b
  | .divI rd ra b => namedOk c .divI rd && firstOk c .divI ra && operandOk c .divI b
  | .addF rd ra b => namedOk c .addF rd && firstOk c .addF ra && operandOk c .addF b
  | .subF rd ra b => namedOk c .subF rd && firstOk c .subF ra && operandOk c .subF b
  | .mulF rd ra b => namedOk c .mulF rd && firstOk c .mulF ra && operandOk c .mulF b
  | .divF rd ra b => namedOk c .divF rd && firstOk c .divF ra && operandOk c .divF b
  | .negI rd ra => namedOk c .negI rd && firstOk c .negI ra
  | .negF rd ra => namedOk c .negF rd && firstOk c .negF ra
  | .and rd ra b => namedOk c .and rd && firstOk c .and ra && operandOk c .and b
  | .or rd ra b => namedOk c .or rd && firstOk c .or ra && operandOk c .or b
  | .xor rd ra b => namedOk c .xor rd && firstOk c .xor ra && operandOk c .xor b
  | .not rd ra => namedOk c .not rd && firstOk c .not ra
  | .bnot rd ra => namedOk c .bnot rd && firstOk c .bnot ra
  | .shl rd ra b => namedOk c .shl rd && firstOk c .shl ra && operandOk c .shl b
  | .shr rd ra b => namedOk c .shr rd && firstOk c .shr ra && operandOk c .shr b
  | .cmpI req rd ra b => reqOk c .cmpI req && namedOk c .cmpI rd && firstOk c .cmpI ra && operandOk c .cmpI b
  | .cmpF req rd ra b => reqOk c .cmpF req && namedOk c .cmpF rd && firstOk c .cmpF ra && operandOk c .cmpF b
  | .itof rd ra => namedOk c .itof rd && firstOk c .itof ra
  | .ftoi rd ra => namedOk c .ftoi rd && firstOk c .ftoi ra
  | .ldr rd ra b => namedOk c .ldr rd && firstOk c .ldr ra && operandOk c .ldr b
  | .str rs ra b => namedOk c .str rs && firstOk c .str ra && operandOk c .str b
  | .push r => sourceOk c .push r
  | .pop rd => namedOk c .pop rd
  | .ldsp rd b => namedOk c .ldsp rd && operandOk c .ldsp b
  | .stsp rs b => namedOk c .stsp rs && operandOk c .stsp b
  | .ldfp rd b => namedOk c .ldfp rd && operandOk c .ldfp b
  | .stfp rs b => namedOk c .stfp rs && operandOk c .stfp b
  | .ldap rd b => namedOk c .ldap rd && operandOk c .ldap b
  | .stap rs b => namedOk c .stap rs && operandOk c .stap b
  | .jmp req b => reqOk c .jmp req && operandOk c .jmp b
  | .ld rd b => namedOk c .ld rd && operandOk c .ld b
  | .st rs b => namedOk c .st rs && operandOk c .st b
  | .ldi rd b => namedOk c .ldi rd && operandOk c .ldi b
  | .sti rs b => namedOk c .sti rs && operandOk c .sti b
  | .call r => sourceOk c .call r
  | .ret => true
  | .putc r => sourceOk c .putc r
  | .getc rd => namedOk c .getc rd
  | .nop => true
  | .halt => true

/-- `OPC` gives 42 numbers, no two equal: it is an injective map from the mnemonics (R101, D1). -/
def Config.opcOk (c : Config) : Bool :=
  c.opc.length == 42 && decide c.opc.Nodup

/-- `AP_REG` names one of the 16 registers (D17). -/
def Config.apRegOk (c : Config) : Bool :=
  decide (c.apReg < 16)

end Sys2Proof
end

