-- ==== Sys2Proof/Decode.lean ====
section
/-! DEFINITION. The instruction codec: the fields of a word (`DEC`), the builder that ORs fields into
a word (`ENC`), the opcode map, the field-use table with the control record read off it, the spec's
default parameters, and the decoder and encoder between words and instructions. -/

namespace Sys2Proof

/-! ## The fields of a word (R81, R83) -/

/-- The structured fields of a word: the outputs of `Decode` (R140) and the inputs of `Encode`
(R135). `dr` is also `sr3` (R83). -/
structure Fields where
  op : BitVec 6
  dr : Reg
  immf : Bool
  req : CC
  imm : Imm
  sr2 : Reg
  sr1 : Reg
  deriving DecidableEq, Repr

/-- Every field zero. -/
def Fields.zero : Fields := ⟨0#6, 0#4, false, CC.none, 0#32, 0#4, 0#4⟩

/-- `w[hi:lo]` with `n = hi - lo + 1` bits (R8, R10). -/
def bits (w : Word) (lo n : Nat) : BitVec n := w.extractLsb' lo n

/-- `Decode` (R140): every field is extracted from every word, whatever the opcode. -/
def decodeFields (w : Word) : Fields where
  op := bits w 57 6
  dr := bits w 53 4
  immf := w.getLsbD 52
  req := ⟨w.getLsbD 39, w.getLsbD 38, w.getLsbD 37⟩
  imm := bits w 4 32
  sr2 := bits w 4 4
  sr1 := bits w 0 4

/-- `OrField(w, F, v) = w | (zext_64(v) << off(F))`, the builder's primitive (R136). -/
def orField {n : Nat} (w : Word) (off : Nat) (v : BitVec n) : Word :=
  w ||| (v.setWidth 64 <<< off)

/-- One bit as a field of width 1. -/
def bitOf (b : Bool) : BitVec 1 := BitVec.ofBool b

/-- `Encode` (R135): every field ORed into the zero word at its fixed offset; `imm` and `sr2` are
ORed into the same bits (R137). -/
def encodeFields (f : Fields) : Word :=
  (f.op.setWidth 64 <<< 57)
    ||| (f.dr.setWidth 64 <<< 53)
    ||| ((bitOf f.immf).setWidth 64 <<< 52)
    ||| ((bitOf f.req.n).setWidth 64 <<< 39)
    ||| ((bitOf f.req.z).setWidth 64 <<< 38)
    ||| ((bitOf f.req.p).setWidth 64 <<< 37)
    ||| (f.imm.setWidth 64 <<< 4)
    ||| (f.sr2.setWidth 64 <<< 4)
    ||| f.sr1.setWidth 64

/-- The union of all field masks (R81). -/
def fieldMask : Word := 0x7FF000EFFFFFFFFF#64

/-- The bits that belong to no field: 63, 51:40 and 36 (R81, R84). -/
def ignoredMask : Word := 0x800FFF1000000000#64

/-! ## The opcode map (R100 to R102) -/

/-- The 42 operation codes in the order of the family table (R100). -/
def Op.all : List Op :=
  [.addI, .subI, .mulI, .divI, .addF, .subF, .mulF, .divF,
   .negI, .negF, .and, .or, .xor, .not, .bnot, .shl,
   .shr, .cmpI, .cmpF, .itof, .ftoi, .ldr, .str, .push,
   .pop, .ldsp, .stsp, .ldfp, .stfp, .ldap, .stap, .jmp,
   .ld, .st, .ldi, .sti, .call, .ret, .putc, .getc,
   .nop, .halt]

/-- The place of an operation code in `Op.all`. -/
def Op.index (o : Op) : Nat := o.ctorIdx

/-- `OPC`: the 6-bit number of an operation code (R101). -/
def Config.codeOf (c : Config) (o : Op) : BitVec 6 := c.opc.getD o.index 0#6

/-- The operation code with a number, if the number is assigned (R102, R142). -/
def Config.opOfCode (c : Config) (code : BitVec 6) : Option Op :=
  Op.all.find? fun o => c.codeOf o == code

/-! ## Which fields an opcode uses (R105) -/

/-- The spec's default of the field-use table `USES` (R105, D4). -/
def Op.defaultUses : Op → UseRow
  | .addI => ⟨.write, true, .byFlag, false⟩
  | .subI => ⟨.write, true, .byFlag, false⟩
  | .mulI => ⟨.write, true, .byFlag, false⟩
  | .divI => ⟨.write, true, .byFlag, false⟩
  | .addF => ⟨.write, true, .sr2, false⟩
  | .subF => ⟨.write, true, .sr2, false⟩
  | .mulF => ⟨.write, true, .sr2, false⟩
  | .divF => ⟨.write, true, .sr2, false⟩
  | .negI => ⟨.write, true, .unused, false⟩
  | .negF => ⟨.write, true, .unused, false⟩
  | .and => ⟨.write, true, .byFlag, false⟩
  | .or => ⟨.write, true, .byFlag, false⟩
  | .xor => ⟨.write, true, .byFlag, false⟩
  | .not => ⟨.write, true, .unused, false⟩
  | .bnot => ⟨.write, true, .unused, false⟩
  | .shl => ⟨.write, true, .byFlag, false⟩
  | .shr => ⟨.write, true, .byFlag, false⟩
  | .cmpI => ⟨.write, true, .byFlag, true⟩
  | .cmpF => ⟨.write, true, .sr2, true⟩
  | .itof => ⟨.write, true, .unused, false⟩
  | .ftoi => ⟨.write, true, .unused, false⟩
  | .ldr => ⟨.write, true, .byFlag, false⟩
  | .str => ⟨.read, true, .byFlag, false⟩
  | .push => ⟨.read, false, .unused, false⟩
  | .pop => ⟨.write, false, .unused, false⟩
  | .ldsp => ⟨.write, false, .imm, false⟩
  | .stsp => ⟨.read, false, .imm, false⟩
  | .ldfp => ⟨.write, false, .imm, false⟩
  | .stfp => ⟨.read, false, .imm, false⟩
  | .ldap => ⟨.write, false, .imm, false⟩
  | .stap => ⟨.read, false, .imm, false⟩
  | .jmp => ⟨.unused, false, .imm, true⟩
  | .ld => ⟨.write, false, .imm, false⟩
  | .st => ⟨.read, false, .imm, false⟩
  | .ldi => ⟨.write, false, .imm, false⟩
  | .sti => ⟨.read, false, .imm, false⟩
  | .call => ⟨.unused, true, .unused, false⟩
  | .ret => ⟨.unused, false, .unused, false⟩
  | .putc => ⟨.unused, true, .unused, false⟩
  | .getc => ⟨.write, false, .unused, false⟩
  | .nop => ⟨.unused, false, .unused, false⟩
  | .halt => ⟨.unused, false, .unused, false⟩

/-- The second operand the decoder delivers to an instruction (`b_sel`, R143). -/
inductive BSel where
  | none
  | sr2
  | imm
  deriving DecidableEq, Repr

/-- The control record `dec_ctl` (R143). -/
structure Ctl where
  wrDr : Bool
  rdSr3 : Bool
  rdSr1 : Bool
  bSel : BSel
  useReq : Bool
  ccWe : Bool
  ccSel : Bool
  deriving DecidableEq, Repr

/-- The control record of an unassigned opcode: every signal 0 or `NONE` (R143). -/
def Ctl.zero : Ctl := ⟨false, false, false, .none, false, false, false⟩

/-- The second-operand select of a row of R105 (R93, R143): by `immf` for an opcode of `IMM_HONOURED`,
else as the payload column says. -/
def Config.bSel (c : Config) (op : Op) (immf : Bool) : BSel :=
  if c.flagChooses op then (if immf then .imm else .sr2)
  else
    match (c.usesOf op).payload with
    | .unused => .none
    | .byFlag => .sr2
    | .sr2 => .sr2
    | .imm => .imm

/-- The opcodes whose rule writes a result to the register of `dr` (R105, column 56:53). -/
def Op.hasResult (op : Op) : Bool := op.defaultUses.f56 == .write

/-- The column cc of an opcode: the source of its flag write, `none` for `-` (R105, R107). The values
of R107 are those of a result or an ordering; an opcode that has neither writes none, even where
`CC_WRITERS` lists it (log entry 16). -/
def Config.ccSource (c : Config) (op : Op) : Option CcSource :=
  if op.hasResult then c.ccWriters.lookup op else none

/-- The control record read off R105 for an assigned opcode (R143). Where the column cc is `-` the
table gives `cc_sel` neither 0 nor 1: that it is 0 there is a DESIGN CHOICE (log entry 26). -/
def Config.ctl (c : Config) (op : Op) (immf : Bool) : Ctl where
  wrDr := (c.usesOf op).f56 == .write
  rdSr3 := (c.usesOf op).f56 == .read
  rdSr1 := (c.usesOf op).sr1
  bSel := c.bSel op immf
  useReq := (c.usesOf op).req
  ccWe := (c.ccSource op).isSome
  ccSel := c.ccSource op == some .ord

/-- The outputs of the unit `DEC` (R130, R140 to R143). -/
structure DecOutput where
  fields : Fields
  immx : Cell
  valid : Bool
  halt : Bool
  ctl : Ctl
  deriving DecidableEq, Repr

/-- The unit `DEC`: total on all 2^64 words (R141). -/
def decOutput (c : Config) (w : Word) : DecOutput where
  fields := decodeFields w
  immx := (decodeFields w).imm.signExtend 64
  valid := (c.opOfCode (decodeFields w).op).isSome
  halt := (decodeFields w).op == c.codeOf .halt
  ctl :=
    match c.opOfCode (decodeFields w).op with
    | some op => c.ctl op (decodeFields w).immf
    | none => Ctl.zero

/-- The bits of a word that an opcode uses (R84, R105, R112): two words that agree on them have the
same effect. -/
def Config.usedMask (c : Config) (op : Op) (immf : Bool) : Word :=
  0x7E00000000000000#64
    ||| (if (c.usesOf op).f56 = .unused then 0#64 else 0x01E0000000000000#64)
    ||| (if c.flagChooses op then 0x0010000000000000#64 else 0#64)
    ||| (if (c.usesOf op).req then 0x000000E000000000#64 else 0#64)
    ||| (match c.bSel op immf with
        | .none => 0#64
        | .sr2 => 0x00000000000000F0#64
        | .imm => 0x0000000FFFFFFFF0#64)
    ||| (if (c.usesOf op).sr1 then 0x000000000000000F#64 else 0#64)

/-! ## The spec's default parameters (R7) -/

/-- The default `OPC`: the opcodes are numbered from 0 in the order of the family table (R101). -/
def Config.defaultOpc : List (BitVec 6) := (List.range 42).map (BitVec.ofNat 6)

/-- The default `IMM_HONOURED` (R106). -/
def Config.defaultImmHonoured : List Op :=
  [.addI, .subI, .mulI, .divI, .and, .or, .xor, .shl, .shr, .cmpI, .ldr, .str]

/-- The default `USES` (R105). -/
def Config.defaultUses : List UseRow := Op.all.map Op.defaultUses

/-- The default `CC_WRITERS` (R107). -/
def Config.defaultCcWriters : List (Op × CcSource) :=
  [(.addI, .int), (.subI, .int), (.mulI, .int), (.divI, .int), (.negI, .int), (.and, .int),
   (.or, .int), (.xor, .int), (.not, .int), (.bnot, .int), (.shl, .int), (.shr, .int),
   (.cmpI, .ord), (.cmpF, .ord)]

/-- The default `FP`: to nearest, ties to even, and any NaN (R202). `FP.ftoi_special` is OPEN; that it
is any value is a DESIGN CHOICE (log entry 13). -/
def FpConfig.default : FpConfig := ⟨.nearestEven, .any, .any⟩

/-- The spec's default of every parameter that has one (R7). The open ones carry a DESIGN CHOICE:
`MEM_CELLS` 4096, the size of the spec's own examples (log entry 4); `AP_REG` 11 (log entry 5);
`GETC_EOF` block (log entry 11); `FP.ftoi_special` any value (log entry 13). -/
def Config.default : Config where
  memCells := 4096
  apReg := 11
  opc := defaultOpc
  uses := defaultUses
  immHonoured := defaultImmHonoured
  ccWriters := defaultCcWriters
  unorderedCC := CC.none
  ccReset := CC.none
  illegalPolicy := .skip
  intOverflow := .wrap
  shiftAmount := .lowSix
  fp := FpConfig.default
  getcEof := .block

/-- Every parameter for which the spec gives a default has it; the open ones, `MEM_CELLS`, `AP_REG`,
`GETC_EOF` and `FP.ftoi_special`, may be anything (R7). -/
abbrev Config.AtDefaults (c : Config) : Prop :=
  c.opc = defaultOpc ∧ c.uses = defaultUses ∧ c.immHonoured = defaultImmHonoured
    ∧ c.ccWriters = defaultCcWriters ∧ c.unorderedCC = CC.none ∧ c.ccReset = CC.none
    ∧ c.illegalPolicy = .skip ∧ c.intOverflow = .wrap ∧ c.shiftAmount = .lowSix
    ∧ c.fp.rounding = .nearestEven ∧ c.fp.nanResult = .any

/-! ## From words to instructions -/

/-- Why a word is no instruction: its opcode number is unassigned (R110, R142). -/
inductive DecodeReject where
  | unassignedOpcode (op : BitVec 6)
  deriving DecidableEq, Repr

/-- The fields of a word as the opcode's row of `USES` lets it see them: a field that the row does not
use is 0, whatever its bits (R105), and `immf` says whether the payload is an immediate (R93). -/
def Fields.used (f : Fields) (c : Config) (op : Op) : Fields where
  op := f.op
  dr := if (c.usesOf op).f56 = .unused then 0#4 else f.dr
  immf := c.bSel op f.immf == .imm
  req := if (c.usesOf op).req then f.req else CC.none
  imm := if c.bSel op f.immf = .imm then f.imm else 0#32
  sr2 := if c.bSel op f.immf = .sr2 then f.sr2 else 0#4
  sr1 := if (c.usesOf op).sr1 then f.sr1 else 0#4

/-- The second operand of the used fields (R92, R93). -/
def Fields.operand (f : Fields) : Operand := if f.immf then .imm f.imm else .reg f.sr2

/-- The one register that PUSH, CALL or PUTC reads: `sr3` where the row reads bits 56:53, else `sr1`
(R105, D4). -/
def Fields.source (f : Fields) (u : UseRow) : Reg := if u.f56 = .read then f.dr else f.sr1

/-- The instruction of an opcode, from the fields it uses and its row of `USES` (R105). -/
def instrOf (u : UseRow) (op : Op) (f : Fields) : Instr :=
  match op with
  | .addI => .addI f.dr f.sr1 f.operand
  | .subI => .subI f.dr f.sr1 f.operand
  | .mulI => .mulI f.dr f.sr1 f.operand
  | .divI => .divI f.dr f.sr1 f.operand
  | .addF => .addF f.dr f.sr1 f.operand
  | .subF => .subF f.dr f.sr1 f.operand
  | .mulF => .mulF f.dr f.sr1 f.operand
  | .divF => .divF f.dr f.sr1 f.operand
  | .negI => .negI f.dr f.sr1
  | .negF => .negF f.dr f.sr1
  | .and => .and f.dr f.sr1 f.operand
  | .or => .or f.dr f.sr1 f.operand
  | .xor => .xor f.dr f.sr1 f.operand
  | .not => .not f.dr f.sr1
  | .bnot => .bnot f.dr f.sr1
  | .shl => .shl f.dr f.sr1 f.operand
  | .shr => .shr f.dr f.sr1 f.operand
  | .cmpI => .cmpI f.req f.dr f.sr1 f.operand
  | .cmpF => .cmpF f.req f.dr f.sr1 f.operand
  | .itof => .itof f.dr f.sr1
  | .ftoi => .ftoi f.dr f.sr1
  | .ldr => .ldr f.dr f.sr1 f.operand
  | .str => .str f.dr f.sr1 f.operand
  | .push => .push (f.source u)
  | .pop => .pop f.dr
  | .ldsp => .ldsp f.dr f.operand
  | .stsp => .stsp f.dr f.operand
  | .ldfp => .ldfp f.dr f.operand
  | .stfp => .stfp f.dr f.operand
  | .ldap => .ldap f.dr f.operand
  | .stap => .stap f.dr f.operand
  | .jmp => .jmp f.req f.operand
  | .ld => .ld f.dr f.operand
  | .st => .st f.dr f.operand
  | .ldi => .ldi f.dr f.operand
  | .sti => .sti f.dr f.operand
  | .call => .call (f.source u)
  | .ret => .ret
  | .putc => .putc (f.source u)
  | .getc => .getc f.dr
  | .nop => .nop
  | .halt => .halt

/-- The instruction a word stands for, or the reason it is none (R102, R105, R110). Total. -/
def decode (c : Config) (w : Word) : Except DecodeReject Instr :=
  match c.opOfCode (decodeFields w).op with
  | some op => .ok (instrOf (c.usesOf op) op ((decodeFields w).used c op))
  | none => .error (.unassignedOpcode (decodeFields w).op)

/-! ## From instructions to words -/

/-- The payload of the register or immediate form in canonical encoding (R113). -/
def Fields.withOperand (f : Fields) : Operand → Fields
  | .reg r => { f with immf := false, imm := 0#32, sr2 := r }
  | .imm v => { f with immf := true, imm := v, sr2 := 0#4 }

/-- The one register that PUSH, CALL or PUTC reads, in the place its row of `USES` names (R105, D4). -/
def Fields.withSource (f : Fields) (u : UseRow) (r : Reg) : Fields :=
  { f with dr := if u.f56 = .read then r else f.dr, sr1 := if u.f56 = .read then f.sr1 else r }

/-- The fields of an instruction in canonical encoding: unused fields 0, `immf` set whenever the
payload carries an immediate (R113). -/
def fieldsOf (c : Config) : Instr → Fields
  | .addI rd ra b => { Fields.zero with op := c.codeOf .addI, dr := rd, sr1 := ra }.withOperand b
  | .subI rd ra b => { Fields.zero with op := c.codeOf .subI, dr := rd, sr1 := ra }.withOperand b
  | .mulI rd ra b => { Fields.zero with op := c.codeOf .mulI, dr := rd, sr1 := ra }.withOperand b
  | .divI rd ra b => { Fields.zero with op := c.codeOf .divI, dr := rd, sr1 := ra }.withOperand b
  | .addF rd ra b => { Fields.zero with op := c.codeOf .addF, dr := rd, sr1 := ra }.withOperand b
  | .subF rd ra b => { Fields.zero with op := c.codeOf .subF, dr := rd, sr1 := ra }.withOperand b
  | .mulF rd ra b => { Fields.zero with op := c.codeOf .mulF, dr := rd, sr1 := ra }.withOperand b
  | .divF rd ra b => { Fields.zero with op := c.codeOf .divF, dr := rd, sr1 := ra }.withOperand b
  | .negI rd ra => { Fields.zero with op := c.codeOf .negI, dr := rd, sr1 := ra }
  | .negF rd ra => { Fields.zero with op := c.codeOf .negF, dr := rd, sr1 := ra }
  | .and rd ra b => { Fields.zero with op := c.codeOf .and, dr := rd, sr1 := ra }.withOperand b
  | .or rd ra b => { Fields.zero with op := c.codeOf .or, dr := rd, sr1 := ra }.withOperand b
  | .xor rd ra b => { Fields.zero with op := c.codeOf .xor, dr := rd, sr1 := ra }.withOperand b
  | .not rd ra => { Fields.zero with op := c.codeOf .not, dr := rd, sr1 := ra }
  | .bnot rd ra => { Fields.zero with op := c.codeOf .bnot, dr := rd, sr1 := ra }
  | .shl rd ra b => { Fields.zero with op := c.codeOf .shl, dr := rd, sr1 := ra }.withOperand b
  | .shr rd ra b => { Fields.zero with op := c.codeOf .shr, dr := rd, sr1 := ra }.withOperand b
  | .cmpI req rd ra b => { Fields.zero with op := c.codeOf .cmpI, req := req, dr := rd, sr1 := ra }.withOperand b
  | .cmpF req rd ra b => { Fields.zero with op := c.codeOf .cmpF, req := req, dr := rd, sr1 := ra }.withOperand b
  | .itof rd ra => { Fields.zero with op := c.codeOf .itof, dr := rd, sr1 := ra }
  | .ftoi rd ra => { Fields.zero with op := c.codeOf .ftoi, dr := rd, sr1 := ra }
  | .ldr rd ra b => { Fields.zero with op := c.codeOf .ldr, dr := rd, sr1 := ra }.withOperand b
  | .str rs ra b => { Fields.zero with op := c.codeOf .str, dr := rs, sr1 := ra }.withOperand b
  | .push r => { Fields.zero with op := c.codeOf .push }.withSource (c.usesOf .push) r
  | .pop rd => { Fields.zero with op := c.codeOf .pop, dr := rd }
  | .ldsp rd b => { Fields.zero with op := c.codeOf .ldsp, dr := rd }.withOperand b
  | .stsp rs b => { Fields.zero with op := c.codeOf .stsp, dr := rs }.withOperand b
  | .ldfp rd b => { Fields.zero with op := c.codeOf .ldfp, dr := rd }.withOperand b
  | .stfp rs b => { Fields.zero with op := c.codeOf .stfp, dr := rs }.withOperand b
  | .ldap rd b => { Fields.zero with op := c.codeOf .ldap, dr := rd }.withOperand b
  | .stap rs b => { Fields.zero with op := c.codeOf .stap, dr := rs }.withOperand b
  | .jmp req b => { Fields.zero with op := c.codeOf .jmp, req := req }.withOperand b
  | .ld rd b => { Fields.zero with op := c.codeOf .ld, dr := rd }.withOperand b
  | .st rs b => { Fields.zero with op := c.codeOf .st, dr := rs }.withOperand b
  | .ldi rd b => { Fields.zero with op := c.codeOf .ldi, dr := rd }.withOperand b
  | .sti rs b => { Fields.zero with op := c.codeOf .sti, dr := rs }.withOperand b
  | .call r => { Fields.zero with op := c.codeOf .call }.withSource (c.usesOf .call) r
  | .ret => { Fields.zero with op := c.codeOf .ret }
  | .putc r => { Fields.zero with op := c.codeOf .putc }.withSource (c.usesOf .putc) r
  | .getc rd => { Fields.zero with op := c.codeOf .getc, dr := rd }
  | .nop => { Fields.zero with op := c.codeOf .nop }
  | .halt => { Fields.zero with op := c.codeOf .halt }

/-- The canonical word of an instruction (R113, R135). -/
def encode (c : Config) (i : Instr) : Word := encodeFields (fieldsOf c i)

/-- The instruction read from a row of the opcode table whose bits are `w`: `nbits` bits of one
64-bit word (R80), bits above `nbits` zero, under the default opcode numbers. -/
def decodeTableWord (nbits w : Nat) : Option Instr :=
  match decode Config.default (BitVec.ofNat 64 (w % 2 ^ nbits)) with
  | .ok i => some i
  | .error _ => none

end Sys2Proof
end

