-- ==== Sys2Proof/Machine/State.lean ====
section
/-! DEFINITION. The state of the machine as plain data, the reasons a step can stop, and the state
after reset. -/

namespace Sys2Proof.Machine

/-- Memory: pairs of a cell index and the 64-bit cell it holds, the indices strictly rising (R36,
R50). A cell that is not listed has not been written (log entries 1 and 2). -/
abbrev Memory := List (Nat × Cell)

/-- The canonical form of a memory: the listed indices strictly rise. -/
abbrev Memory.wf (m : Memory) : Prop := m.Pairwise fun x y => x.1 < y.1

/-- The causes of a fatal trap (R401). -/
inductive TrapCause where
  /-- Cause 1: the cell index of a fetch, read or write is `MEM_CELLS` or more (R402). -/
  | memOutOfRange
  /-- Cause 2: DIV.I with a second operand of 0 (R403). -/
  | divideByZero
  /-- Cause 3: DIV.I of -2^63 by -1 (R404). -/
  | divideOverflow
  /-- Cause 4: POP with R14 = 0 (R407). -/
  | stackUnderflow
  /-- Cause 5: a register index outside 0 to 15; only a misconfigured `AP_REG` gives one (R23, R406). -/
  | registerOutOfRange
  /-- Cause 6: an unassigned opcode under `ILLEGAL_POLICY = trap` (R405). -/
  | illegalOpcode
  /-- Cause 7: signed overflow under `INT_OVERFLOW = trap` (R408). -/
  | integerOverflow
  deriving DecidableEq, Repr

/-- The code number of a cause (R401). -/
def TrapCause.code : TrapCause → Nat
  | .memOutOfRange => 1
  | .divideByZero => 2
  | .divideOverflow => 3
  | .stackUnderflow => 4
  | .registerOutOfRange => 5
  | .illegalOpcode => 6
  | .integerOverflow => 7

/-- The run state (R38). HALTED and FAULTED are terminal: only reset leaves them. -/
inductive RunState where
  | running
  | halted
  | faulted (cause : TrapCause) (info : Cell)
  deriving DecidableEq, Repr

/-- The whole state of the machine: the general registers (R20), the program counter (R24), the
condition-code register (R28), memory (R36), the run state and the diagnostic `illegal_seen` (R38),
the two character streams (R37, R347), and the model's own fields `inputEnded`, `draws` and `cfg`. -/
structure State where
  /-- The parameters of R7; no step changes them (log entry 6). -/
  cfg : Config
  /-- `x[0]` to `x[15]` (R20). -/
  regs : Vector Cell 16
  /-- The cell index of the next word to fetch (R24). -/
  pc : Cell
  /-- The condition-code register (R28). -/
  cc : CC
  /-- The one memory (R36). -/
  mem : Memory
  /-- The run state (R38). -/
  runState : RunState
  /-- The sticky diagnostic: an unassigned opcode was skipped (R38, R110). -/
  illegalSeen : Bool
  /-- The input bytes the host has supplied and no GETC has read, the next one first (R342). -/
  input : List Byte
  /-- The host has closed the input stream (the model's own field, log entry 17). -/
  inputEnded : Bool
  /-- The bytes consumed from the input, the oldest first (R347). -/
  inputRead : List Byte
  /-- The bytes written to the output, the oldest first (R340, R342). -/
  output : List Byte
  /-- How many free values have been drawn (the model's own field, log entry 12). -/
  draws : Nat
  deriving DecidableEq, Repr

/-- Why a step can stop with a fault. -/
inductive Fault where
  /-- Raised by `step` alone, when it is asked of a machine that is already FAULTED: the run has been
  aborted by this fatal trap and no further step is made (R400, R413). Safe: the machine makes no
  step either. Taking the trap is a next state, not this (log entry 8). -/
  | fatalTrap (cause : TrapCause) (info : Cell)
  deriving DecidableEq, Repr

/-- Why a step can be refused. -/
inductive Refusal where
  /-- Raised by an arm of `exec` whose instruction has no meaning yet. Safe: nothing can be proved of
  it. No arm is refused. -/
  | notModelled (mnemonic : String)
  /-- Raised by GETC alone, at the end of input, where `GETC_EOF` is configured to refuse the form
  (R341, U13, log entry 11). Safe: nothing can be proved of the run after it. -/
  | endOfInput
  deriving DecidableEq, Repr

/-- Reset of a machine in any state (R440): the flags take `CC_RESET`, the program counter 0, the run
state RUNNING and `illegal_seen` 0; the registers, the memory and the streams stay as they are (log
entry 19). -/
def State.rst (s : State) : State :=
  { s with cc := s.cfg.ccReset, pc := 0#64, runState := .running, illegalSeen := false }

/-- A machine at power-on before `rst`, with given parameters, register contents (`REG_RESET`) and
memory contents (`MEM_RESET` where a cell is not listed): R39 leaves both unspecified. -/
def State.powerOn (cfg : Config) (regs : Vector Cell 16) (mem : Memory) : State where
  cfg := cfg
  regs := regs
  pc := 0#64
  cc := CC.none
  mem := mem
  runState := .running
  illegalSeen := false
  input := []
  inputEnded := false
  inputRead := []
  output := []
  draws := 0

/-- The machine right after reset (R39, R440) with given parameters, register contents and memory:
the spec leaves these unspecified, so that a claim about every run from reset quantifies over them. -/
def State.resetFrom (cfg : Config) (regs : Vector Cell 16) (mem : Memory) : State :=
  (State.powerOn cfg regs mem).rst

/-- The machine right after reset, with the default parameters, memory with nothing listed, and the
value 0 in every general register: DESIGN CHOICE, unsafe (log entry 3): the spec leaves the registers
unspecified, and no statement rests on the 0. -/
def State.reset : State :=
  State.resetFrom Config.default (Vector.replicate 16 0#64) []

end Sys2Proof.Machine
end

