-- ==== Sys2Proof/Machine/Flags.lean ====
section
/-! DEFINITION. The flag computations and the condition-code unit `CCU` (R150 to R158). -/

namespace Sys2Proof.Machine

/-- `CCofInt`: the sign of the 64-bit result cell (R151). -/
def ccOfInt (r : Cell) : CC where
  n := r.getLsbD 63
  z := r == 0#64
  p := !r.getLsbD 63 && r != 0#64

/-- `CCofOrd`: the raw comparison (R152). -/
def ccOfOrd (c : Config) : CmpOrder → CC
  | .less => ⟨true, false, false⟩
  | .equal => ⟨false, true, false⟩
  | .greater => ⟨false, false, true⟩
  | .unordered => c.unorderedCC

/-- `Match(r, c)`: some requested flag is set (R154). -/
def ccMatch (req cc : CC) : Bool :=
  (req.n && cc.n) || (req.z && cc.z) || (req.p && cc.p)

/-- The cell 1 or 0 (R155, R227). -/
def cellOfBool (b : Bool) : Cell := if b then 1#64 else 0#64

/-- The ordering of two integers (R240). -/
def orderInt (a b : Int) : CmpOrder :=
  if a < b then .less else if a = b then .equal else .greater

/-- Whether an exact integer result is in the signed 64-bit range (R200). -/
def fits64 (v : Int) : Bool := decide (-9223372036854775808 ≤ v ∧ v ≤ 9223372036854775807)

/-- The input ports of the unit `CCU` (R130). -/
structure CcuInput where
  rst : Bool
  ccWe : Bool
  ccSel : Bool
  ccRes : Cell
  ccOrd : BitVec 2
  req : CC
  deriving DecidableEq, Repr

/-- The output ports of the unit `CCU` (R130). -/
structure CcuOutput where
  cc : CC
  ccNew : CC
  cmpMatch : Bool
  jmpTaken : Bool
  deriving DecidableEq, Repr

/-- The ordering that the port `cc_ord` carries: 0 less, 1 equal, 2 greater, 3 unordered (R130). -/
def orderOfPort (o : BitVec 2) : CmpOrder :=
  if o = 0#2 then .less else if o = 1#2 then .equal else if o = 2#2 then .greater else .unordered

/-- The port value of an ordering (R130). -/
def portOfOrder : CmpOrder → BitVec 2
  | .less => 0#2
  | .equal => 1#2
  | .greater => 2#2
  | .unordered => 3#2

/-- `cc_new`: the flags that would be written (R153). -/
def ccuNew (c : Config) (i : CcuInput) : CC :=
  if i.ccSel then ccOfOrd c (orderOfPort i.ccOrd) else ccOfInt i.ccRes

/-- The combinational outputs of `CCU` in a step that begins with the flags `cc` (R153 to R156). -/
def ccuOutput (c : Config) (cc : CC) (i : CcuInput) : CcuOutput where
  cc := cc
  ccNew := ccuNew c i
  cmpMatch := ccMatch i.req (ccuNew c i)
  jmpTaken := ccMatch i.req cc

/-- The flags that `CCU` holds after a step: `CC_RESET` on `rst`, `cc_new` when `cc_we`, else unchanged
(R150). With `rst` and `cc_we` both 1 the rule gives no priority: that `rst` wins is a DESIGN CHOICE
(log entry 27). -/
def ccuNext (c : Config) (cc : CC) (i : CcuInput) : CC :=
  if i.rst then c.ccReset else if i.ccWe then ccuNew c i else cc

end Sys2Proof.Machine
end

