-- ==== Sys2Proof/Machine/Fp.lean ====
section
/-! DEFINITION. The floating-point numerics record `FP` (R202): IEEE-754 binary64 on cells, computed
exactly on integers and rounded once, by default to nearest, ties to even. A finite value is held as a
whole number of units of 2^-1074, the least subnormal. `none` is a NaN result, whose bits the spec
leaves open (R202, U7), or an FTOI operand whose result it leaves open (R244, U8). Log entry 14. -/

namespace Sys2Proof.Machine

/-- The binary64 value of a cell (R9): a NaN, an infinity, or plus or minus `k` units of 2^-1074. -/
inductive FpVal where
  | nan
  | inf (neg : Bool)
  | fin (neg : Bool) (k : Nat)
  deriving DecidableEq, Repr

/-- How many units of 2^-1074 the number 1 is. -/
def fpUnit : Nat := 2 ^ 1074

/-- The magnitude bits (exponent and fraction) of infinity. -/
def fpInfMag : Nat := 2047 * 2 ^ 52

/-- The units of the finite magnitude with these exponent and fraction fields (R9). -/
def fpUnits (e f : Nat) : Nat := (if e = 0 then f else 2 ^ 52 + f) <<< (e - 1)

/-- `f(c)`: the value a cell encodes, sign `c[63]`, exponent `c[62:52]`, fraction `c[51:0]` (R9). -/
def fpValue (c : Cell) : FpVal :=
  let e := (c.extractLsb' 52 11).toNat
  let f := (c.extractLsb' 0 52).toNat
  if e = 2047 then
    if f = 0 then .inf (c.getLsbD 63) else .nan
  else .fin (c.getLsbD 63) (fpUnits e f)

/-- A magnitude with a sign. -/
def signed (neg : Bool) (k : Nat) : Int := if neg then -(k : Int) else (k : Int)

/-- The quotient `n / d` rounded to the nearest integer, ties to even (R202). -/
def roundHalfEven (n d : Nat) : Nat :=
  let q := n / d
  let r := n % d
  if 2 * r < d then q else if d < 2 * r then q + 1 else q + q % 2

/-- The exponent of the binade in which `q` units lie: numbers below 2^53 units are spaced by one
unit (subnormals are exact, R202), and each binade above by twice as much as the one below. -/
def fpBinade (q : Nat) : Nat := if q < 2 ^ 53 then 0 else Nat.log2 q - 52

/-- The quotient `n / d`, the magnitude of a value with the sign `neg`, rounded to an integer: by
default to nearest, ties to even (R202); the other directions as IEEE-754 has them (log entry 14). -/
def roundQuotient (r : Rounding) (neg : Bool) (n d : Nat) : Nat :=
  match r with
  | .nearestEven => roundHalfEven n d
  | .nearestAway => if 2 * (n % d) < d then n / d else n / d + 1
  | .towardZero => n / d
  | .towardPositive => if neg = true ∨ n % d = 0 then n / d else n / d + 1
  | .towardNegative => if neg = false ∨ n % d = 0 then n / d else n / d + 1

/-- The greatest magnitude bits a rounded result of the sign `neg` can have: those of infinity, and
where the direction is toward zero those of the greatest finite value (log entry 14). -/
def greatestMag (r : Rounding) (neg : Bool) : Nat :=
  match r with
  | .nearestEven => fpInfMag
  | .nearestAway => fpInfMag
  | .towardZero => fpInfMag - 1
  | .towardPositive => if neg then fpInfMag - 1 else fpInfMag
  | .towardNegative => if neg then fpInfMag else fpInfMag - 1

/-- The magnitude bits of plus or minus `n / d` units rounded to binary64, by default to nearest, ties
to even, and infinity where the rounded value is too large (R202, log entry 14). -/
def roundMag (r : Rounding) (neg : Bool) (n d : Nat) : Nat :=
  let e := fpBinade (n / d)
  min (e * 2 ^ 52 + roundQuotient r neg n (d <<< e)) (greatestMag r neg)

/-- The cell with a sign and magnitude bits. -/
def fpCell (neg : Bool) (mag : Nat) : Cell := BitVec.ofNat 64 ((if neg then 2 ^ 63 else 0) + mag)

/-- Plus or minus zero. -/
def fpZero (neg : Bool) : Cell := fpCell neg 0

/-- Plus or minus infinity. -/
def fpInf (neg : Bool) : Cell := fpCell neg fpInfMag

/-- Plus or minus `n / d` units, rounded. -/
def fpRound (r : Rounding) (neg : Bool) (n d : Nat) : Cell := fpCell neg (roundMag r neg n d)

/-- A cell that is a NaN: exponent all ones, fraction non-zero (U7). -/
def isNan (c : Cell) : Bool := decide (fpValue c = .nan)

/-- The NaN with the sign and fraction of the drawn bits; every NaN is one of these (U7). -/
def nanOf (b : Cell) : Cell :=
  if b.extractLsb' 0 52 = 0#52 then b ||| 0x7FF8000000000000#64 else b ||| 0x7FF0000000000000#64

/-- The sum of two finite values: the exact sum rounded (R209, R210). An exact zero is +0 where the
signs differ (R209, R210; -0 if rounding is toward negative) and else keeps the common sign of the two
zeros: PRESUMED, IEEE-754 (log entry 14). -/
def fpSumFinite (r : Rounding) (s : Bool) (j : Nat) (t : Bool) (k : Nat) : Cell :=
  let v := signed s j + signed t k
  if v = 0 then fpZero (if s = t then s else decide (r = .towardNegative))
  else fpRound r (decide (v < 0)) v.natAbs 1

/-- The sum of two values (R209). That infinities of one sign, and an infinity with a finite value,
add up to that infinity is PRESUMED, IEEE-754 (log entry 14). -/
def FpVal.add (r : Rounding) (a b : FpVal) : Option Cell :=
  match a, b with
  | .nan, _ => none
  | _, .nan => none
  | .inf s, .inf t => if s = t then some (fpInf s) else none
  | .inf s, .fin _ _ => some (fpInf s)
  | .fin _ _, .inf t => some (fpInf t)
  | .fin s j, .fin t k => some (fpSumFinite r s j t k)

/-- `FP.add` (R209). -/
def fpAdd (r : Rounding) (a b : Cell) : Option Cell := FpVal.add r (fpValue a) (fpValue b)

/-- The IEEE-754 negate: invert the sign bit (R213). -/
def fpNeg (a : Cell) : Cell := a ^^^ 0x8000000000000000#64

/-- `FP.sub` (R210): the sum with the negated second operand. -/
def fpSub (r : Rounding) (a b : Cell) : Option Cell := fpAdd r a (fpNeg b)

/-- The product of two values (R211): the sign of a zero or infinite product is the exclusive or of
the signs. That infinity times infinity, and infinity times a non-zero finite value, is an infinity is
PRESUMED, IEEE-754 (log entry 14). -/
def FpVal.mul (r : Rounding) (a b : FpVal) : Option Cell :=
  match a, b with
  | .nan, _ => none
  | _, .nan => none
  | .inf s, .inf t => some (fpInf (s ^^ t))
  | .inf s, .fin t k => if k = 0 then none else some (fpInf (s ^^ t))
  | .fin s j, .inf t => if j = 0 then none else some (fpInf (s ^^ t))
  | .fin s j, .fin t k => some (fpRound r (s ^^ t) (j * k) fpUnit)

/-- `FP.mul` (R211). -/
def fpMul (r : Rounding) (a b : Cell) : Option Cell := FpVal.mul r (fpValue a) (fpValue b)

/-- The quotient of two values (R212). PRESUMED, IEEE-754 (log entry 14): the sign of a zero quotient
(zero divided by a non-zero value, a quotient that underflows, a finite value divided by an infinity)
is the exclusive or of the signs, an infinity divided by a finite value, zero included, is an infinity
of that sign, and a finite value divided by an infinity is a zero. -/
def FpVal.div (r : Rounding) (a b : FpVal) : Option Cell :=
  match a, b with
  | .nan, _ => none
  | _, .nan => none
  | .inf _, .inf _ => none
  | .inf s, .fin t _ => some (fpInf (s ^^ t))
  | .fin s _, .inf t => some (fpZero (s ^^ t))
  | .fin s j, .fin t k =>
    if k = 0 then
      if j = 0 then none else some (fpInf (s ^^ t))
    else some (fpRound r (s ^^ t) (j * fpUnit) k)

/-- `FP.div` (R212). -/
def fpDiv (r : Rounding) (a b : Cell) : Option Cell := FpVal.div r (fpValue a) (fpValue b)

/-- The ordering of two values (R241): a NaN is unordered, +0 and -0 are equal. -/
def FpVal.order (a b : FpVal) : CmpOrder :=
  match a, b with
  | .nan, _ => .unordered
  | _, .nan => .unordered
  | .inf s, .inf t => if s = t then .equal else if s then .less else .greater
  | .inf s, .fin _ _ => if s then .less else .greater
  | .fin _ _, .inf t => if t then .greater else .less
  | .fin s j, .fin t k => orderInt (signed s j) (signed t k)

/-- The ordering of two cells read as binary64 (R241). -/
def fpOrder (a b : Cell) : CmpOrder := FpVal.order (fpValue a) (fpValue b)

/-- `FP.from_int` (R243): the integer rounded to binary64. -/
def fpOfInt (r : Rounding) (v : Int) : Cell := fpRound r (decide (v < 0)) (v.natAbs * fpUnit) 1

/-- FTOI of a finite value whose truncation fits (R244); `none` for a NaN, an infinity and a value
out of the signed 64-bit range, where the result is `FP.ftoi_special`. -/
def fpToInt (a : Cell) : Option Cell :=
  match fpValue a with
  | .nan => none
  | .inf _ => none
  | .fin s k =>
    let t := signed s (k / fpUnit)
    if fits64 t then some (BitVec.ofInt 64 t) else none

end Sys2Proof.Machine
end

