-- ==== Sys2Proof/Machine/Ops.lean ====
section
/-! DEFINITION. The named operations over the state: registers, memory, taking a fatal trap, the
writes of a result, the fetch, the character streams and the host's loader. In a meaning the program
counter already holds `npc`, the address of the instruction plus one (R25). -/

namespace Sys2Proof.Machine

/-! ## Memory as data -/

/-- The cell listed at an index, if there is one. -/
def Memory.lookup : Memory → Nat → Option Cell
  | [], _ => none
  | (b, v) :: m, a => if b = a then some v else Memory.lookup m a

/-- What a cell reads as: what was last written, and while nothing has been the free value
`MEM_RESET` (R54, R39, log entry 2). -/
def Memory.read (m : Memory) (a : Nat) : Cell := (Memory.lookup m a).getD (Config.memReset a)

/-- The memory with one cell written, in canonical form again. -/
def Memory.write : Memory → Nat → Cell → Memory
  | [], a, v => [(a, v)]
  | (b, w) :: m, a, v =>
    if a < b then (a, v) :: (b, w) :: m
    else if a = b then (a, v) :: m
    else (b, w) :: Memory.write m a v

/-! ## Registers -/

/-- `x[i]` (R10, R20). -/
def State.reg (s : State) (r : Reg) : Cell := s.regs[r.toNat]'(r.isLt)

/-- `x[i] <- v` (R10, R20). -/
def State.setReg (s : State) (r : Reg) (v : Cell) : State :=
  { s with regs := s.regs.set r.toNat v r.isLt }

/-! ## Taking a fatal trap -/

/-- `raise T(info)` (R10, R400, R412): the run state becomes FAULTED(cause, info) and nothing else
changes; the counter is already advanced. There is no vector, no saved state, no handler (R412), and
no return from a trap (R413). -/
def State.takeTrap (s : State) (cause : TrapCause) (info : Cell) : State :=
  { s with runState := .faulted cause info }

/-- The address of the executing instruction, `npc - 1` (R25, R207, R264). -/
def State.instrAddr (s : State) : Cell := s.pc - 1#64

/-! ## Memory accesses -/

/-- A cell index is inside memory (R55). -/
def State.inMem (s : State) (a : Cell) : Bool := decide (a.toNat < s.cfg.memCells)

/-- The cell at an index of the state's memory. -/
def State.cell (s : State) (a : Nat) : Cell := Memory.read s.mem a

/-- The state with one cell of memory written, with no check. -/
def State.setCell (s : State) (a : Nat) (v : Cell) : State := { s with mem := Memory.write s.mem a v }

/-- `v <- MemRead(a, 8)` and then the rest of the rule with `v`; `MemOutOfRange(a)` where the index
is out of range (R55). -/
def State.withLoad (s : State) (a : Cell) (k : Cell → State) : State :=
  if s.inMem a then k (s.cell a.toNat) else s.takeTrap .memOutOfRange a

/-- `MemWrite(a, 8, v)` (R55). -/
def State.store (s : State) (a v : Cell) : State :=
  if s.inMem a then s.setCell a.toNat v else s.takeTrap .memOutOfRange a

/-! ## Results and flags -/

/-- The flags after an opcode completes with the result cell `r` and the ordering `o`: from the source
that `CC_WRITERS` has for the opcode, and as they were where it has none (R107, R153). -/
def State.newCC (s : State) (op : Op) (r : Cell) (o : CmpOrder) : CC :=
  match s.cfg.ccSource op with
  | none => s.cc
  | some .int => ccOfInt r
  | some .ord => ccOfOrd s.cfg o

/-- `x[dr] <- r` with the flags as `CC_WRITERS` has them for the opcode: by default from the result
(R201, R221). Where it is set to take them from an ordering the opcode has none of its own, and the
ordering is free (log entry 16). -/
def State.writeResult (s : State) (op : Op) (rd : Reg) (r : Cell) : State :=
  { s.setReg rd r with cc := s.newCC op r (orderOfPort (Config.resultOrder op r)) }

/-- The end of ADD.I, SUB.I, MUL.I and NEG.I with the exact integer result `v`: the result modulo
2^64, or `IntegerOverflow` under `INT_OVERFLOW = trap` (R200, R201, R408). -/
def State.writeInt (s : State) (op : Op) (rd : Reg) (v : Int) : State :=
  if s.cfg.intOverflow = .trap ∧ fits64 v = false then s.takeTrap .integerOverflow s.instrAddr
  else s.writeResult op rd (BitVec.ofInt 64 v)

/-- The next free value is drawn (log entry 12). -/
def State.drawn (s : State) : State := { s with draws := s.draws + 1 }

/-- A result that the record `FP` leaves to its field `v`: the value drawn, or the fixed one. -/
def State.openCell (s : State) (v : OpenResult) : Cell :=
  match v with
  | .any => Config.freeCell s.draws
  | .fixed c => c

/-- The end of a floating-point opcode: a numeric result, or the NaN of `FP`, by default some NaN
(R202, U7). -/
def State.writeFp (s : State) (op : Op) (rd : Reg) : Option Cell → State
  | some r => s.writeResult op rd r
  | none => s.drawn.writeResult op rd (nanOf (s.openCell s.cfg.fp.nanResult))

/-- The end of FTOI: the truncated value, or `FP.ftoi_special`, by default any value (R244, U8). -/
def State.writeFtoi (s : State) (rd : Reg) : Option Cell → State
  | some r => s.writeResult .ftoi rd r
  | none => s.drawn.writeResult .ftoi rd (s.openCell s.cfg.fp.ftoiSpecial)

/-- What a compare writes to its destination: `Match(req, raw)` as 1 or 0 (R155, R240, R241). -/
def State.compareCell (s : State) (req : CC) (o : CmpOrder) : Cell :=
  cellOfBool (ccMatch req (ccOfOrd s.cfg o))

/-- The end of a compare: the destination gets `Match(req, raw)` and the flags are written as
`CC_WRITERS` has it, by default the raw comparison (R155, R240, R241). -/
def State.writeCompare (s : State) (op : Op) (req : CC) (rd : Reg) (o : CmpOrder) : State :=
  { s.setReg rd (s.compareCell req o) with cc := s.newCC op (s.compareCell req o) o }

/-! ## Fetch and unassigned opcodes -/

/-- The word at the program counter, if the counter is inside memory (R25, R402). -/
def State.fetch (s : State) : Option Word :=
  if s.inMem s.pc then some (s.cell s.pc.toNat) else none

/-- The fetch step's advance of the counter, modulo 2^64 (R25, R27). -/
def State.advance (s : State) : State := { s with pc := s.pc + 1#64 }

/-- A word with an unassigned opcode, the counter already advanced: skipped with the sticky
diagnostic set, or the trap `IllegalOpcode` (R110, R405). -/
def State.illegal (s : State) (w : Word) : State :=
  match s.cfg.illegalPolicy with
  | .skip => { s with illegalSeen := true }
  | .trap => s.takeTrap .illegalOpcode w

/-! ## The character streams -/

/-- `Output(b)`: one byte appended to the output stream (R340). -/
def State.putByte (s : State) (b : Byte) : State := { s with output := s.output ++ [b] }

/-- One byte consumed from the input stream (R341, R347). -/
def State.gotByte (s : State) (b : Byte) (rest : List Byte) : State :=
  { s with input := rest, inputRead := s.inputRead ++ [b] }

/-- GETC with no byte available does not complete: the machine is as it was before the step, so the
GETC is tried again (R342, log entry 10). -/
def State.waitInput (s : State) : State := { s with pc := s.pc - 1#64 }

/-! ## What the host does between steps -/

/-- The loader writes consecutive cells from an index on (R60). Words that reach past `MEM_CELLS`: R442
asks the host for memory large enough and gives no effect otherwise. That such a word is listed with no
check is a DESIGN CHOICE (log entry 28): no fetch and no instruction reads the cell (R36, R55), and
`State.memOk` is then false. -/
def State.loadCells (s : State) (base : Nat) : List Cell → State
  | [] => s
  | v :: vs => (s.setCell base v).loadCells (base + 1) vs

/-- `CODE_BASE`, where the loader places the instruction stream (R6, R57, R60). -/
def codeBase : Nat := 0

/-- `STACK_BASE`, the initial value of the stack pointer by convention (R6, R57). -/
def stackBase : Nat := 1000

/-- `POOL_BASE`, where the loader places the constant pool (R6, R57, R60). -/
def poolBase : Nat := 3000

/-- `MEM_CELLS` is large enough for the conventions of R6: at least `POOL_BASE + 1` (R7). -/
def Config.conventionsOk (c : Config) : Bool := decide (poolBase < c.memCells)

/-- The start of the program wrapper: R14 is set to `STACK_BASE` and R12 to `POOL_BASE` (R6, R442). -/
def wrapperStart : List Instr :=
  [.and Reg.sp Reg.sp (.imm 0#32), .addI Reg.sp Reg.sp (.imm (BitVec.ofNat 32 stackBase)),
   .and 12#4 12#4 (.imm 0#32), .addI 12#4 12#4 (.imm (BitVec.ofNat 32 poolBase))]

/-- The loader's whole placement: the instruction stream from `CODE_BASE`, the constant pool from
`POOL_BASE` (R60, R442). A stream of more than 3000 words and a non-empty pool claim the same cells,
and the rules give no order (R59 and U18 leave the collision to a premise): that the pool is placed
second, so that its words stand there, is a DESIGN CHOICE (log entry 25). -/
def State.loadProgram (s : State) (stream pool : List Cell) : State :=
  (s.loadCells codeBase stream).loadCells poolBase pool

/-- The host supplies more input bytes (R342). -/
def State.supplyInput (s : State) (bs : List Byte) : State := { s with input := s.input ++ bs }

/-- The host closes the input stream. -/
def State.endInput (s : State) : State := { s with inputEnded := true }

end Sys2Proof.Machine
end

