-- ==== Sys2Proof/Machine/Operands.lean ====
section
/-! DEFINITION. The operand forms: the sign-extended immediate, the second operand `B`, the shift
count, and the effective addresses of the memory instructions (R12, R90, R93, R222, R260, R265, R300).
The `I` of an offset is the operand `B`, by default always the immediate (R105). -/

namespace Sys2Proof.Machine

/-- `I = sext_64(imm)` (R12, R90). -/
def immX (v : Imm) : Cell := v.signExtend 64

/-- `B`: the register `x[sr2]` or the immediate `I` (R12, R92, R93). -/
def State.operand (s : State) : Operand → Cell
  | .reg r => s.reg r
  | .imm v => immX v

/-- `SHIFT_AMOUNT(B)`: the low six bits, or under the other choice the operand itself up to 63 and
an unknown count above (R222). -/
def shiftCount (c : Config) (b : Cell) : Nat :=
  match c.shiftAmount with
  | .lowSix => (b.extractLsb' 0 6).toNat
  | .other => if b.toNat ≤ 63 then b.toNat else Config.otherShiftCount b

/-- The effective address of LDR and STR, `A + B` modulo 2^64 (R260, R261, R262). -/
def State.indexedAddr (s : State) (ra : Reg) (b : Operand) : Cell := s.reg ra + s.operand b

/-- The effective address `x[P] + I` of LDSP, STSP, LDFP and STFP (R265). -/
def State.pointerAddr (s : State) (p : Reg) (b : Operand) : Cell := s.reg p + s.operand b

/-- The register that `AP_REG` names (R22). -/
def apRegister (c : Config) : Reg := BitVec.ofNat 4 c.apReg

/-- The rest of a rule of LDAP or STAP with its effective address `x[AP_REG] + I`;
`RegisterOutOfRange` where `AP_REG` names no register (R23, R265, R406). -/
def State.withApAddr (s : State) (b : Operand) (k : Cell → State) : State :=
  if s.cfg.apReg < 16 then k (s.pointerAddr (apRegister s.cfg) b)
  else s.takeTrap .registerOutOfRange (BitVec.ofNat 64 s.cfg.apReg)

/-- The cell `npc + I` that a PC-relative instruction or a jump names (R290, R300). -/
def State.pcRelAddr (s : State) (b : Operand) : Cell := s.pc + s.operand b

/-- The cell above the top of the stack, where PUSH stores: `x[14] + 1` modulo 2^64 (R263). -/
def State.pushAddr (s : State) : Cell := s.reg Reg.sp + 1#64

end Sys2Proof.Machine
end

