-- ==== Sys2Proof/Machine/Arithmetic.lean ====
section
/-! DEFINITION. Integer and floating-point arithmetic: ADD.I SUB.I MUL.I DIV.I ADD.F SUB.F MUL.F DIV.F
NEG.I NEG.F (R200 to R213). The first source register is the left operand (R203). -/

namespace Sys2Proof.Machine

/-- ADD.I (R204). -/
def execAddI (rd ra : Reg) (b : Operand) (s : State) : Host.Outcome State Fault Refusal :=
  .next (s.writeInt .addI rd ((s.reg ra).toInt + (s.operand b).toInt))

/-- SUB.I (R205). -/
def execSubI (rd ra : Reg) (b : Operand) (s : State) : Host.Outcome State Fault Refusal :=
  .next (s.writeInt .subI rd ((s.reg ra).toInt - (s.operand b).toInt))

/-- MUL.I (R206): the low 64 bits of the product. -/
def execMulI (rd ra : Reg) (b : Operand) (s : State) : Host.Outcome State Fault Refusal :=
  .next (s.writeInt .mulI rd ((s.reg ra).toInt * (s.operand b).toInt))

/-- The state after DIV.I of `a` by `b` (R207): the two traps in the order the rule checks them, or
the quotient rounded toward zero. -/
def State.divide (s : State) (rd : Reg) (a b : Cell) : State :=
  if b = 0#64 then s.takeTrap .divideByZero s.instrAddr
  else if a = 0x8000000000000000#64 ∧ b = 0xFFFFFFFFFFFFFFFF#64 then
    s.takeTrap .divideOverflow s.instrAddr
  else s.writeResult .divI rd (BitVec.ofInt 64 (a.toInt.tdiv b.toInt))

/-- DIV.I (R207). -/
def execDivI (rd ra : Reg) (b : Operand) (s : State) : Host.Outcome State Fault Refusal :=
  .next (s.divide rd (s.reg ra) (s.operand b))

/-- ADD.F (R209). -/
def execAddF (rd ra : Reg) (b : Operand) (s : State) : Host.Outcome State Fault Refusal :=
  .next (s.writeFp .addF rd (fpAdd s.cfg.fp.rounding (s.reg ra) (s.operand b)))

/-- SUB.F (R210). -/
def execSubF (rd ra : Reg) (b : Operand) (s : State) : Host.Outcome State Fault Refusal :=
  .next (s.writeFp .subF rd (fpSub s.cfg.fp.rounding (s.reg ra) (s.operand b)))

/-- MUL.F (R211). -/
def execMulF (rd ra : Reg) (b : Operand) (s : State) : Host.Outcome State Fault Refusal :=
  .next (s.writeFp .mulF rd (fpMul s.cfg.fp.rounding (s.reg ra) (s.operand b)))

/-- DIV.F (R212): a zero divisor does not trap. -/
def execDivF (rd ra : Reg) (b : Operand) (s : State) : Host.Outcome State Fault Refusal :=
  .next (s.writeFp .divF rd (fpDiv s.cfg.fp.rounding (s.reg ra) (s.operand b)))

/-- NEG.I (R208). -/
def execNegI (rd ra : Reg) (s : State) : Host.Outcome State Fault Refusal :=
  .next (s.writeInt .negI rd (0 - (s.reg ra).toInt))

/-- NEG.F (R213): exact for every operand, a NaN's payload included. -/
def execNegF (rd ra : Reg) (s : State) : Host.Outcome State Fault Refusal :=
  .next (s.writeResult .negF rd (fpNeg (s.reg ra)))

end Sys2Proof.Machine
end

