-- ==== Sys2Proof/Machine/Bitwise.lean ====
section
/-! DEFINITION. Bitwise, boolean and shift instructions: AND OR XOR NOT BNOT SHL SHR (R220 to R229). -/

namespace Sys2Proof.Machine

/-- AND (R223). -/
def execAnd (rd ra : Reg) (b : Operand) (s : State) : Host.Outcome State Fault Refusal :=
  .next (s.writeResult .and rd (s.reg ra &&& s.operand b))

/-- OR (R224). -/
def execOr (rd ra : Reg) (b : Operand) (s : State) : Host.Outcome State Fault Refusal :=
  .next (s.writeResult .or rd (s.reg ra ||| s.operand b))

/-- XOR (R225). -/
def execXor (rd ra : Reg) (b : Operand) (s : State) : Host.Outcome State Fault Refusal :=
  .next (s.writeResult .xor rd (s.reg ra ^^^ s.operand b))

/-- NOT (R226): all 64 bits inverted. -/
def execNot (rd ra : Reg) (s : State) : Host.Outcome State Fault Refusal :=
  .next (s.writeResult .not rd (~~~(s.reg ra)))

/-- BNOT (R227): 1 where the operand is zero, else 0. -/
def execBnot (rd ra : Reg) (s : State) : Host.Outcome State Fault Refusal :=
  .next (s.writeResult .bnot rd (cellOfBool (s.reg ra == 0#64)))

/-- SHL (R228): zeros enter at bit 0. -/
def execShl (rd ra : Reg) (b : Operand) (s : State) : Host.Outcome State Fault Refusal :=
  .next (s.writeResult .shl rd (s.reg ra <<< shiftCount s.cfg (s.operand b)))

/-- SHR (R229): copies of bit 63 enter at bit 63. -/
def execShr (rd ra : Reg) (b : Operand) (s : State) : Host.Outcome State Fault Refusal :=
  .next (s.writeResult .shr rd ((s.reg ra).sshiftRight (shiftCount s.cfg (s.operand b))))

end Sys2Proof.Machine
end

