-- ==== Sys2Proof/Machine/CharIo.lean ====
section
/-! DEFINITION. Character input and output: PUTC GETC (R340 to R342). -/

namespace Sys2Proof.Machine

/-- PUTC (R340): the least significant byte of the register. -/
def execPutc (ra : Reg) (s : State) : Host.Outcome State Fault Refusal :=
  .next (s.putByte ((s.reg ra).extractLsb' 0 8))

/-- GETC (R341, R342): the next byte, zero-extended. With no byte available it waits; at the end of
input `GETC_EOF` decides, block or refuse (U13, log entry 11). -/
def execGetc (rd : Reg) (s : State) : Host.Outcome State Fault Refusal :=
  match s.input with
  | b :: rest => .next ((s.gotByte b rest).writeResult .getc rd (b.setWidth 64))
  | [] =>
    if s.inputEnded = true ∧ s.cfg.getcEof = .refuse then .refused .endOfInput
    else .next s.waitInput

end Sys2Proof.Machine
end

