-- ==== Sys2Proof/Machine/Compare.lean ====
section
/-! DEFINITION. Compare and conversion instructions: CMP.I CMP.F ITOF FTOI (R240 to R244). -/

namespace Sys2Proof.Machine

/-- CMP.I (R240): the signed integers themselves are compared, not a wrapped difference. -/
def execCmpI (req : CC) (rd ra : Reg) (b : Operand) (s : State) :
    Host.Outcome State Fault Refusal :=
  .next (s.writeCompare .cmpI req rd (orderInt (s.reg ra).toInt (s.operand b).toInt))

/-- CMP.F (R241). -/
def execCmpF (req : CC) (rd ra : Reg) (b : Operand) (s : State) :
    Host.Outcome State Fault Refusal :=
  .next (s.writeCompare .cmpF req rd (fpOrder (s.reg ra) (s.operand b)))

/-- ITOF (R243). -/
def execItof (rd ra : Reg) (s : State) : Host.Outcome State Fault Refusal :=
  .next (s.writeResult .itof rd (fpOfInt s.cfg.fp.rounding (s.reg ra).toInt))

/-- FTOI (R244). -/
def execFtoi (rd ra : Reg) (s : State) : Host.Outcome State Fault Refusal :=
  .next (s.writeFtoi rd (fpToInt (s.reg ra)))

end Sys2Proof.Machine
end

