-- ==== Sys2Proof/Machine/Control.lean ====
section
/-! DEFINITION. Conditional jump, call, return, no-op and halt: JMP CALL RET NOP HALT (R290 to R294,
R320, R321, R345, R346). -/

namespace Sys2Proof.Machine

/-- JMP (R290): taken iff a requested flag is set in the stored flags. -/
def execJmp (req : CC) (b : Operand) (s : State) : Host.Outcome State Fault Refusal :=
  .next (if ccMatch req s.cc then { s with pc := s.pcRelAddr b } else s)

/-- CALL (R320): the target register is read after R15 is written. -/
def execCall (ra : Reg) (s : State) : Host.Outcome State Fault Refusal :=
  .next { s.setReg Reg.lr s.pc with pc := (s.setReg Reg.lr s.pc).reg ra }

/-- RET (R321). -/
def execRet (s : State) : Host.Outcome State Fault Refusal :=
  .next { s with pc := s.reg Reg.lr }

/-- NOP (R345): nothing; the counter was already advanced. -/
def execNop (s : State) : Host.Outcome State Fault Refusal :=
  .next s

/-- HALT (R346). -/
def execHalt (s : State) : Host.Outcome State Fault Refusal :=
  .next { s with runState := .halted }

end Sys2Proof.Machine
end

