-- ==== Sys2Proof/Machine/LoadStore.lean ====
section
/-! DEFINITION. Indexed, stack, frame- and argument-relative and PC-relative memory instructions: LDR
STR PUSH POP LDSP STSP LDFP STFP LDAP STAP LD ST LDI STI (R260 to R271, R300 to R304). By default none
of them writes the flags; a load or POP writes them where the configured `CC_WRITERS` lists it (R107). -/

namespace Sys2Proof.Machine

/-- LDR (R261). -/
def execLdr (rd ra : Reg) (b : Operand) (s : State) : Host.Outcome State Fault Refusal :=
  .next (s.withLoad (s.indexedAddr ra b) (s.writeResult .ldr rd))

/-- STR (R262). -/
def execStr (rs ra : Reg) (b : Operand) (s : State) : Host.Outcome State Fault Refusal :=
  .next (s.store (s.indexedAddr ra b) (s.reg rs))

/-- The state after PUSH (R263): the check precedes the increment, and the data register is read
after R14 is written. -/
def State.pushed (s : State) (rs : Reg) : State :=
  if s.inMem s.pushAddr then
    (s.setReg Reg.sp s.pushAddr).store s.pushAddr ((s.setReg Reg.sp s.pushAddr).reg rs)
  else s.takeTrap .memOutOfRange s.pushAddr

/-- PUSH (R263). -/
def execPush (rs : Reg) (s : State) : Host.Outcome State Fault Refusal :=
  .next (s.pushed rs)

/-- The end of POP with the loaded cell `v` (R264): the decrement follows the write of the
destination, so that POP R14 ends with `v - 1`. The result, for the flags of a configured `CC_WRITERS`,
is `v` (log entry 16). -/
def State.popWith (s : State) (rd : Reg) (v : Cell) : State :=
  let t := s.writeResult .pop rd v
  t.setReg Reg.sp (t.reg Reg.sp - 1#64)

/-- POP (R264). -/
def execPop (rd : Reg) (s : State) : Host.Outcome State Fault Refusal :=
  .next (if s.reg Reg.sp = 0#64 then s.takeTrap .stackUnderflow s.instrAddr
    else s.withLoad (s.reg Reg.sp) (s.popWith rd))

/-- LDSP (R266). -/
def execLdsp (rd : Reg) (b : Operand) (s : State) : Host.Outcome State Fault Refusal :=
  .next (s.withLoad (s.pointerAddr Reg.sp b) (s.writeResult .ldsp rd))

/-- STSP (R267). -/
def execStsp (rs : Reg) (b : Operand) (s : State) : Host.Outcome State Fault Refusal :=
  .next (s.store (s.pointerAddr Reg.sp b) (s.reg rs))

/-- LDFP (R268). -/
def execLdfp (rd : Reg) (b : Operand) (s : State) : Host.Outcome State Fault Refusal :=
  .next (s.withLoad (s.pointerAddr Reg.fp b) (s.writeResult .ldfp rd))

/-- STFP (R269). -/
def execStfp (rs : Reg) (b : Operand) (s : State) : Host.Outcome State Fault Refusal :=
  .next (s.store (s.pointerAddr Reg.fp b) (s.reg rs))

/-- LDAP (R270). -/
def execLdap (rd : Reg) (b : Operand) (s : State) : Host.Outcome State Fault Refusal :=
  .next (s.withApAddr b fun a => s.withLoad a (s.writeResult .ldap rd))

/-- STAP (R271). -/
def execStap (rs : Reg) (b : Operand) (s : State) : Host.Outcome State Fault Refusal :=
  .next (s.withApAddr b fun a => s.store a (s.reg rs))

/-- LD, direct (R301). -/
def execLd (rd : Reg) (b : Operand) (s : State) : Host.Outcome State Fault Refusal :=
  .next (s.withLoad (s.pcRelAddr b) (s.writeResult .ld rd))

/-- ST, direct (R302). -/
def execSt (rs : Reg) (b : Operand) (s : State) : Host.Outcome State Fault Refusal :=
  .next (s.store (s.pcRelAddr b) (s.reg rs))

/-- LDI, indirect (R303): the pointer cell, then the operand. -/
def execLdi (rd : Reg) (b : Operand) (s : State) : Host.Outcome State Fault Refusal :=
  .next (s.withLoad (s.pcRelAddr b) fun p => s.withLoad p (s.writeResult .ldi rd))

/-- STI, indirect (R304). -/
def execSti (rs : Reg) (b : Operand) (s : State) : Host.Outcome State Fault Refusal :=
  .next (s.withLoad (s.pcRelAddr b) fun p => s.store p (s.reg rs))

end Sys2Proof.Machine
end

