-- ==== Sys2Proof/Machine/Dispatch.lean ====
section
/-! DEFINITION. The dispatch: one arm for each instruction, each a call of its meaning. -/

namespace Sys2Proof.Machine

/-- The meaning of a decoded instruction in the state that the fetch step left (R25). -/
def exec (i : Instr) (s : State) : Host.Outcome State Fault Refusal :=
  match i with
  | .addI rd ra b => Sys2Proof.Machine.execAddI rd ra b s
  | .subI rd ra b => Sys2Proof.Machine.execSubI rd ra b s
  | .mulI rd ra b => Sys2Proof.Machine.execMulI rd ra b s
  | .divI rd ra b => Sys2Proof.Machine.execDivI rd ra b s
  | .addF rd ra b => Sys2Proof.Machine.execAddF rd ra b s
  | .subF rd ra b => Sys2Proof.Machine.execSubF rd ra b s
  | .mulF rd ra b => Sys2Proof.Machine.execMulF rd ra b s
  | .divF rd ra b => Sys2Proof.Machine.execDivF rd ra b s
  | .negI rd ra => Sys2Proof.Machine.execNegI rd ra s
  | .negF rd ra => Sys2Proof.Machine.execNegF rd ra s
  | .and rd ra b => Sys2Proof.Machine.execAnd rd ra b s
  | .or rd ra b => Sys2Proof.Machine.execOr rd ra b s
  | .xor rd ra b => Sys2Proof.Machine.execXor rd ra b s
  | .not rd ra => Sys2Proof.Machine.execNot rd ra s
  | .bnot rd ra => Sys2Proof.Machine.execBnot rd ra s
  | .shl rd ra b => Sys2Proof.Machine.execShl rd ra b s
  | .shr rd ra b => Sys2Proof.Machine.execShr rd ra b s
  | .cmpI req rd ra b => Sys2Proof.Machine.execCmpI req rd ra b s
  | .cmpF req rd ra b => Sys2Proof.Machine.execCmpF req rd ra b s
  | .itof rd ra => Sys2Proof.Machine.execItof rd ra s
  | .ftoi rd ra => Sys2Proof.Machine.execFtoi rd ra s
  | .ldr rd ra b => Sys2Proof.Machine.execLdr rd ra b s
  | .str rs ra b => Sys2Proof.Machine.execStr rs ra b s
  | .push rs => Sys2Proof.Machine.execPush rs s
  | .pop rd => Sys2Proof.Machine.execPop rd s
  | .ldsp rd b => Sys2Proof.Machine.execLdsp rd b s
  | .stsp rs b => Sys2Proof.Machine.execStsp rs b s
  | .ldfp rd b => Sys2Proof.Machine.execLdfp rd b s
  | .stfp rs b => Sys2Proof.Machine.execStfp rs b s
  | .ldap rd b => Sys2Proof.Machine.execLdap rd b s
  | .stap rs b => Sys2Proof.Machine.execStap rs b s
  | .jmp req b => Sys2Proof.Machine.execJmp req b s
  | .ld rd b => Sys2Proof.Machine.execLd rd b s
  | .st rs b => Sys2Proof.Machine.execSt rs b s
  | .ldi rd b => Sys2Proof.Machine.execLdi rd b s
  | .sti rs b => Sys2Proof.Machine.execSti rs b s
  | .call ra => Sys2Proof.Machine.execCall ra s
  | .ret => Sys2Proof.Machine.execRet s
  | .putc ra => Sys2Proof.Machine.execPutc ra s
  | .getc rd => Sys2Proof.Machine.execGetc rd s
  | .nop => Sys2Proof.Machine.execNop s
  | .halt => Sys2Proof.Machine.execHalt s

end Sys2Proof.Machine
end

