-- ==== Sys2Proof/Machine/Step.lean ====
section
/-! DEFINITION. One step of the machine (R25), and the placing of a word where the next step fetches. -/

namespace Sys2Proof.Machine

/-- A step of a RUNNING machine (R25, R411): fetch, decode, advance, dispatch. A counter outside
memory is `MemOutOfRange(pc)` with the counter not advanced (R412). -/
def stepRunning (s : State) : Host.Outcome State Fault Refusal :=
  match s.fetch with
  | none => .next (s.takeTrap .memOutOfRange s.pc)
  | some w =>
    match decode s.cfg w with
    | .ok i => exec i s.advance
    | .error _ => .next (s.advance.illegal w)

/-- One step (R25). HALTED and FAULTED are terminal (R38, R346, R413): a HALTED machine stays as it is
(log entry 9), and a FAULTED one answers the trap that aborted its run (log entry 8). -/
def step (s : State) : Host.Outcome State Fault Refusal :=
  match s.runState with
  | .running => stepRunning s
  | .halted => .next s
  | .faulted cause info => .fault (.fatalTrap cause info)

/-- The state with an instruction word of `nbits` bits stored in the cell the next step fetches. With
the counter outside memory the cell is listed and never fetched (DESIGN CHOICE, log entry 28). -/
def State.withFetchWord (s : State) (nbits w : Nat) : State :=
  s.setCell s.pc.toNat (BitVec.ofNat 64 (w % 2 ^ nbits))

end Sys2Proof.Machine
end

