-- ==== Sys2Proof/Safety.lean ====
section
/-! DEFINITION. The terms claims use: the invariant of the machine's state, the end of a run (R347,
R413), and what it is for one state to be another with only some part changed. -/

namespace Sys2Proof.Machine

/-! ## The invariant -/

/-- The parameters `UNORDERED_CC` and `CC_RESET` set at most one flag, as their defaults do (R32). -/
def flagsOk (c : Config) : Bool := c.unorderedCC.atMostOne && c.ccReset.atMostOne

/-- Memory is in canonical form and lists no cell outside its bounds (R50, R57). -/
def State.memOk (s : State) : Prop := Memory.wf s.mem ∧ ∀ x ∈ s.mem, x.1 < s.cfg.memCells

/-- The invariant of every step: memory is canonical and inside its bounds, and at most one flag is
set (R32). -/
def State.Inv (s : State) : Prop :=
  s.memOk ∧ flagsOk s.cfg = true ∧ s.cc.atMostOne = true

/-! ## The end of a run -/

/-- A fatal trap has ended the run (R400). -/
def State.trapped (s : State) : Bool :=
  match s.runState with
  | .faulted _ _ => true
  | .running => false
  | .halted => false

/-- From `s` the machine comes in some number of steps to `t`, HALTED, having skipped no unassigned
opcode: the end of a run that a claim about a program's result may look at (R347, R413, D11). -/
def HaltsWith (s t : State) : Prop :=
  (∃ k, Host.Core.run Sys2Proof.core k s = .next t) ∧ t.runState = .halted ∧ t.illegalSeen = false

/-! ## Frames -/

/-- The parameters, the run state, the diagnostic and the character streams are the same. -/
def SameRest (s t : State) : Prop :=
  t.cfg = s.cfg ∧ t.runState = s.runState ∧ t.illegalSeen = s.illegalSeen ∧ t.input = s.input
    ∧ t.inputEnded = s.inputEnded ∧ t.inputRead = s.inputRead ∧ t.output = s.output

/-- Every cell of memory reads the same. -/
def SameMem (s t : State) : Prop := ∀ a, t.cell a = s.cell a

/-- Every general register is the same. -/
def SameRegs (s t : State) : Prop := ∀ q, t.reg q = s.reg q

/-- Every general register but `rd` is the same. -/
def SameRegsBut (rd : Reg) (s t : State) : Prop := ∀ q, q ≠ rd → t.reg q = s.reg q

/-- `t` is `s` with `v` in register `rd` and `f` in the flags, and nothing else changed. -/
def WritesRegFlags (s t : State) (rd : Reg) (v : Cell) (f : CC) : Prop :=
  t.reg rd = v ∧ SameRegsBut rd s t ∧ t.cc = f ∧ t.pc = s.pc ∧ SameMem s t ∧ t.draws = s.draws
    ∧ SameRest s t

/-- `t` is `s` with `v` in register `rd`, and nothing else changed. -/
def WritesReg (s t : State) (rd : Reg) (v : Cell) : Prop := WritesRegFlags s t rd v s.cc

/-- `t` is `s` with one free value drawn, some value with the property `p` in register `rd`, and
nothing else changed. -/
def WritesFree (s t : State) (rd : Reg) (p : Cell → Prop) : Prop :=
  p (t.reg rd) ∧ SameRegsBut rd s t ∧ t.cc = s.cc ∧ t.pc = s.pc ∧ SameMem s t
    ∧ t.draws = s.draws + 1 ∧ SameRest s t

/-- `t` is `s` with `v` in the memory cell `a`, and nothing else changed. -/
def WritesCell (s t : State) (a : Nat) (v : Cell) : Prop :=
  t.cell a = v ∧ (∀ b, b ≠ a → t.cell b = s.cell b) ∧ SameRegs s t ∧ t.cc = s.cc ∧ t.pc = s.pc
    ∧ t.draws = s.draws ∧ SameRest s t

/-- `t` is `s` with the fatal trap taken, and nothing else changed (R412). -/
def Traps (s t : State) (cause : TrapCause) (info : Cell) : Prop :=
  t = { s with runState := .faulted cause info }

end Sys2Proof.Machine
end

