-- ==== Sys2Proof/Certificates/Slice0/Obligations.lean ====
section
/-! DEFINITION. The statements for the provers. In a statement about an instruction `s` is the state
that the fetch step left, so that `s.pc` is `npc`, the address of the instruction plus one (R25). -/

open Sys2Proof Sys2Proof.Machine

namespace Sys2Proof.Claims

/-! ## Shapes that several statements share -/

/-- An integer instruction with the exact result `v`: the cell `r` and its flags under
`INT_OVERFLOW = wrap`, and under `trap` where `v` fits; the trap, and nothing else, where it does
not (R200, R201, R408). -/
def IntegerResult (i : Instr) (s : State) (rd : Reg) (v : Int) (r : Cell) : Prop :=
  (s.cfg.intOverflow = .wrap → ∃ t, exec i s = .next t ∧ WritesRegFlags s t rd r (ccOfInt r))
    ∧ (s.cfg.intOverflow = .trap → -2 ^ 63 ≤ v → v < 2 ^ 63 →
        ∃ t, exec i s = .next t ∧ WritesRegFlags s t rd r (ccOfInt r))
    ∧ (s.cfg.intOverflow = .trap → v < -2 ^ 63 ∨ 2 ^ 63 ≤ v →
        ∃ t, exec i s = .next t ∧ Traps s t .integerOverflow (s.pc - 1#64))

/-- A floating-point instruction with the result `r`: the number without a flag write, or some NaN
(R202). -/
def FloatResult (i : Instr) (s : State) (rd : Reg) (r : Option Cell) : Prop :=
  (∀ v, r = some v → ∃ t, exec i s = .next t ∧ WritesReg s t rd v)
    ∧ (r = none → ∃ t, exec i s = .next t ∧ WritesFree s t rd fun c => isNan c = true)

/-- `f` is the flags of `s`, by default and wherever the instruction is outside `CC_WRITERS` (R107). -/
def KeepsFlags (i : Instr) (s : State) (f : CC) : Prop :=
  s.cfg.ccWriters = Config.defaultCcWriters ∨ s.cfg.ccSource i.op = none → f = s.cc

/-- An instruction that loads register `rd` from the cell `ea` (R55, R260). -/
def LoadsFrom (i : Instr) (s : State) (rd : Reg) (ea : Cell) : Prop :=
  (ea.toNat < s.cfg.memCells → ∃ t f, exec i s = .next t
      ∧ WritesRegFlags s t rd (s.cell ea.toNat) f ∧ KeepsFlags i s f)
    ∧ (s.cfg.memCells ≤ ea.toNat → ∃ t, exec i s = .next t ∧ Traps s t .memOutOfRange ea)

/-- An instruction that stores register `rs` into the cell `ea` (R55, R260). -/
def StoresTo (i : Instr) (s : State) (rs : Reg) (ea : Cell) : Prop :=
  (ea.toNat < s.cfg.memCells → ∃ t, exec i s = .next t ∧ WritesCell s t ea.toNat (s.reg rs))
    ∧ (s.cfg.memCells ≤ ea.toNat → ∃ t, exec i s = .next t ∧ Traps s t .memOutOfRange ea)

/-- The word at the counter of a RUNNING machine stands for the instruction `i` (R25). -/
def Fetches (s : State) (i : Instr) : Prop :=
  s.runState = .running ∧ ∃ w, s.fetch = some w ∧ decode s.cfg w = .ok i

/-- The units of 2^-1074 of the finite binary64 with these magnitude bits (R9). -/
def magUnits (m : Nat) : Nat := fpUnits (m / 2 ^ 52) (m % 2 ^ 52)

/-- The distance of `n / d` units from a finite binary64 with magnitude bits `m`, times `d`. -/
def distance (n d m : Nat) : Nat := ((n : Int) - (d : Int) * (magUnits m : Int)).natAbs

/-- The exact integer result of the four opcodes that `INT_OVERFLOW` is about (R200). -/
def exactResult (s : State) : Instr → Option Int
  | .addI _ ra b => some ((s.reg ra).toInt + (s.operand b).toInt)
  | .subI _ ra b => some ((s.reg ra).toInt - (s.operand b).toInt)
  | .mulI _ ra b => some ((s.reg ra).toInt * (s.operand b).toInt)
  | .negI _ ra => some (-(s.reg ra).toInt)
  | _ => none

/-- The register of `dr` that an instruction writes its result to (R105, column 56:53). -/
def resultReg : Instr → Option Reg
  | .addI rd _ _ => some rd
  | .subI rd _ _ => some rd
  | .mulI rd _ _ => some rd
  | .divI rd _ _ => some rd
  | .addF rd _ _ => some rd
  | .subF rd _ _ => some rd
  | .mulF rd _ _ => some rd
  | .divF rd _ _ => some rd
  | .negI rd _ => some rd
  | .negF rd _ => some rd
  | .and rd _ _ => some rd
  | .or rd _ _ => some rd
  | .xor rd _ _ => some rd
  | .not rd _ => some rd
  | .bnot rd _ => some rd
  | .shl rd _ _ => some rd
  | .shr rd _ _ => some rd
  | .cmpI _ rd _ _ => some rd
  | .cmpF _ rd _ _ => some rd
  | .itof rd _ => some rd
  | .ftoi rd _ => some rd
  | .ldr rd _ _ => some rd
  | .pop rd => some rd
  | .ldsp rd _ => some rd
  | .ldfp rd _ => some rd
  | .ldap rd _ => some rd
  | .ld rd _ => some rd
  | .ldi rd _ => some rd
  | .getc rd => some rd
  | _ => none

/-- The cell index that a store-like instruction stores to and the cell it stores, in the state that
the fetch step left; STAP where `AP_REG` names a register, STI where its pointer cell is in range
(R260, R262, R263, R267, R269, R271, R302, R304). -/
def storeOf (s : State) : Instr → Option (Cell × Cell)
  | .str rs ra b => some (s.reg ra + s.operand b, s.reg rs)
  | .push rs => some (s.reg 14#4 + 1#64, if rs = 14#4 then s.reg 14#4 + 1#64 else s.reg rs)
  | .stsp rs b => some (s.reg 14#4 + s.operand b, s.reg rs)
  | .stfp rs b => some (s.reg 13#4 + s.operand b, s.reg rs)
  | .stap rs b =>
    if s.cfg.apReg < 16 then some (s.reg (apRegister s.cfg) + s.operand b, s.reg rs) else none
  | .st rs b => some (s.pc + s.operand b, s.reg rs)
  | .sti rs b =>
    let p := s.pc + s.operand b
    if p.toNat < s.cfg.memCells then some (s.cell p.toNat, s.reg rs) else none
  | _ => none

end Sys2Proof.Claims

open Sys2Proof.Claims

/-! ## The codec -/

/-- Words written out from the spec's examples decode to the instructions they stand for. -/
def Obligations.SpecWordsDecode : Prop :=
  decode Config.default 0x0000000000000021#64 = .ok (.addI 0 1 (.reg 2))
    ∧ decode Config.default 0x01D0000000003E8E#64 = .ok (.addI 14 14 (.imm 1000))
    ∧ decode Config.default 0x2C70000FFFFFFFE4#64 = .ok (.str 3 4 (.imm (-2)))
    ∧ decode Config.default 0x3E10002FFFFFFFD0#64 = .ok (.jmp ⟨false, false, true⟩ (.imm (-3)))
    ∧ decode Config.default 0x22500040000000F0#64 = .ok (.cmpI ⟨false, true, false⟩ 2 0 (.imm 15))

/-- The default opcode numbers follow the family table and are injective; an instruction is selected
by bits 62:57 alone (R101, R102). -/
def Obligations.OpcodeNumbersFollowTheTable : Prop :=
  Config.opcOk Config.default = true
    ∧ (∀ o : Op, (Config.default.codeOf o).toNat = o.index ∧ o.index < 42)
    ∧ Op.all.map Op.index = List.range 42
    ∧ (∀ (c : Config) (w w' : Word), (decodeFields w).op = (decodeFields w').op →
      (decode c w).map Instr.op = (decode c w').map Instr.op)

/-- Decode after encode returns every field; the payload is the OR of the two that share its bits. -/
def Obligations.DecodeAfterEncodeReturnsTheFields : Prop :=
  ∀ f : Fields,
    let d := decodeFields (encodeFields f)
    d.op = f.op ∧ d.dr = f.dr ∧ d.sr1 = f.sr1 ∧ d.immf = f.immf ∧ d.req = f.req
      ∧ d.imm = (f.imm ||| f.sr2.setWidth 32)
      ∧ (f.sr2 = 0#4 → d.imm = f.imm)
      ∧ (f.imm.extractLsb' 0 4 = 0#4 → d.sr2 = f.sr2)
      ∧ (f.imm = 0#32 → d.imm = f.sr2.setWidth 32)

/-- Encode after decode clears the ignored bits and keeps every other bit; on words with the ignored
bits zero decoding is injective and encoding undoes it. -/
def Obligations.EncodeAfterDecodeKeepsTheFieldBits : Prop :=
  (∀ w : Word, encodeFields (decodeFields w) = w &&& fieldMask)
    ∧ (∀ w w' : Word, w &&& ignoredMask = 0#64 → w' &&& ignoredMask = 0#64 →
        decodeFields w = decodeFields w' → w = w')
    ∧ (∀ w : Word, w &&& ignoredMask = 0#64 → encodeFields (decodeFields w) = w)

/-- Every word the encoder produces has the ignored bits zero. -/
def Obligations.EncoderLeavesIgnoredBitsZero : Prop :=
  ∀ f : Fields, encodeFields f &&& ignoredMask = 0#64

/-- Bits 63, 51:40 and 36 affect no output of the decoder and no decoded instruction. -/
def Obligations.IgnoredBitsAffectNoOutput : Prop :=
  ∀ (c : Config) (w w' : Word), w &&& fieldMask = w' &&& fieldMask →
    decOutput c w = decOutput c w' ∧ decode c w = decode c w'

/-- The builder: ORing the fields in one at a time from the zero word gives the word of `Encode`, in
any order, and ORing a field twice ORs the two values. -/
def Obligations.BuilderOrdersCommute : Prop :=
  (∀ f : Fields, encodeFields f =
      orField (orField (orField (orField (orField (orField (orField (orField (orField 0#64 57 f.op)
        53 f.dr) 52 (bitOf f.immf)) 39 (bitOf f.req.n)) 38 (bitOf f.req.z)) 37 (bitOf f.req.p))
        4 f.imm) 4 f.sr2) 0 f.sr1)
    ∧ (∀ (m n o p : Nat) (u : BitVec m) (v : BitVec n) (w : Word),
        orField (orField w o u) p v = orField (orField w p v) o u)
    ∧ (∀ (n o : Nat) (u v : BitVec n) (w : Word),
        orField (orField w o u) o v = orField w o (u ||| v))

/-- HEADLINE. Decoding the encoding of a well-formed instruction gives it back, for every injective
numbering of the opcodes, every field-use table and every operand; under the default parameters every
instruction is well formed but a floating-point one with an immediate operand and a jump or an
always-immediate memory instruction with a register. -/
def Obligations.DecodeOfEncodeIsTheInstruction : Prop :=
  (∀ (c : Config) (i : Instr), Config.opcOk c = true → i.wellFormed c = true →
      decode c (encode c i) = .ok i)
    ∧ (∀ (c : Config) (i : Instr), c.AtDefaults → (i.wellFormed c = true ↔
      ∀ req rd ra v, i ∉ [Instr.addF rd ra (.imm v), .subF rd ra (.imm v), .mulF rd ra (.imm v),
        .divF rd ra (.imm v), .cmpF req rd ra (.imm v), .ldsp rd (.reg ra), .stsp rd (.reg ra),
        .ldfp rd (.reg ra), .stfp rd (.reg ra), .ldap rd (.reg ra), .stap rd (.reg ra),
        .jmp req (.reg ra), .ld rd (.reg ra), .st rd (.reg ra), .ldi rd (.reg ra), .sti rd (.reg ra)]))

/-- A decoded instruction is well formed, and its canonical word decodes to it again. -/
def Obligations.DecodedInstructionsAreWellFormed : Prop :=
  ∀ (c : Config) (w : Word) (i : Instr), decode c w = .ok i →
    i.wellFormed c = true ∧ (Config.opcOk c = true → decode c (encode c i) = decode c w)

/-- Two words that agree on the bits their opcode uses decode to the same instruction. -/
def Obligations.UnusedFieldsAreIgnored : Prop :=
  ∀ (c : Config) (w w' : Word) (op : Op), c.opOfCode (decodeFields w).op = some op →
    w &&& c.usedMask op (decodeFields w).immf = w' &&& c.usedMask op (decodeFields w).immf →
    decode c w' = decode c w

/-- `dec_valid` is 1 iff the number is in the image of `OPC`, by default iff it is at most 41, and
`dec_halt` iff it is HALT's, by default 41. -/
def Obligations.DecValidAndHalt : Prop :=
  (∀ (c : Config) (w : Word),
      ((decOutput c w).valid = true ↔ ∃ o : Op, c.codeOf o = (decodeFields w).op)
        ∧ ((decOutput c w).halt = true ↔ (decodeFields w).op = c.codeOf .halt))
    ∧ (∀ (c : Config) (w : Word), c.AtDefaults →
      ((decOutput c w).valid = true ↔ (decodeFields w).op.toNat ≤ 41)
        ∧ ((decOutput c w).halt = true ↔ (decodeFields w).op.toNat = 41))

/-- The control record of a word by default, signal by signal, and all zero for an unassigned opcode.
That `cc_sel` is 0 for an opcode that does not write the flags is the model's choice (log entry 26). -/
def Obligations.ControlRecordFollowsTheTable : Prop :=
  (∀ (w : Word) (op : Op), Config.default.opOfCode (decodeFields w).op = some op →
      let r := (decOutput Config.default w).ctl
      let immf := w.getLsbD 52
      (r.rdSr3 = true ↔ op ∈ [Op.str, .push, .stsp, .stfp, .stap, .st, .sti])
        ∧ (r.wrDr = true ↔ op ∉ [Op.str, .push, .stsp, .stfp, .stap, .st, .sti, .jmp, .call, .ret,
            .putc, .nop, .halt])
        ∧ (r.rdSr1 = true ↔ op ∉ [Op.push, .pop, .ldsp, .stsp, .ldfp, .stfp, .ldap, .stap, .jmp, .ld,
            .st, .ldi, .sti, .ret, .getc, .nop, .halt])
        ∧ (r.bSel = .imm ↔ op ∈ [Op.ldsp, .stsp, .ldfp, .stfp, .ldap, .stap, .jmp, .ld, .st, .ldi, .sti]
            ∨ (op ∈ [Op.addI, .subI, .mulI, .divI, .and, .or, .xor, .shl, .shr, .cmpI, .ldr, .str]
              ∧ immf = true))
        ∧ (r.bSel = .sr2 ↔ op ∈ [Op.addF, .subF, .mulF, .divF, .cmpF]
            ∨ (op ∈ [Op.addI, .subI, .mulI, .divI, .and, .or, .xor, .shl, .shr, .cmpI, .ldr, .str]
              ∧ immf = false))
        ∧ (r.useReq = true ↔ op ∈ [Op.cmpI, .cmpF, .jmp])
        ∧ (r.ccWe = true ↔ op ∈ [Op.addI, .subI, .mulI, .divI, .negI, .and, .or, .xor, .not, .bnot,
            .shl, .shr, .cmpI, .cmpF])
        ∧ (r.ccSel = true ↔ op ∈ [Op.cmpI, .cmpF])
        ∧ (r.wrDr && r.rdSr3) = false)
    ∧ (∀ (c : Config) (w : Word), (decOutput c w).valid = false → (decOutput c w).ctl = Ctl.zero)

/-! ## The condition-code unit -/

/-- `CCofInt` is the sign of the result read as a signed integer, and exactly one flag is set; every
instruction that completes and that `CC_WRITERS` has with the source `int` takes the flags from the cell
it writes to its destination, for POP R14 the cell before the decrement. For an instruction outside the
default `CC_WRITERS` that is the model's reading (log entry 16). -/
def Obligations.ResultFlagsAreTheSign : Prop :=
  (∀ r : Cell,
    ((ccOfInt r).n = true ↔ r.toInt < 0) ∧ ((ccOfInt r).z = true ↔ r = 0#64)
      ∧ ((ccOfInt r).p = true ↔ 0 < r.toInt)
      ∧ (ccOfInt r = ⟨true, false, false⟩ ∨ ccOfInt r = ⟨false, true, false⟩
        ∨ ccOfInt r = ⟨false, false, true⟩))
    ∧ ∀ (s t : State) (i : Instr) (rd : Reg), s.cfg.ccWriters.lookup i.op = some .int →
      resultReg i = some rd → exec i s = .next t → t.trapped = false →
      (i = .getc rd → s.input ≠ []) →
      t.cc = ccOfInt (if i = .pop 14#4 then t.reg 14#4 + 1#64 else t.reg rd)

/-- `CCofOrd` of each ordering; and `Match`, which is 1 iff some requested flag is set: requesting
nothing, or no flag set, gives 0. -/
def Obligations.OrderingFlagsAndMatch : Prop :=
  (∀ c : Config, ccOfOrd c .less = ⟨true, false, false⟩ ∧ ccOfOrd c .equal = ⟨false, true, false⟩
      ∧ ccOfOrd c .greater = ⟨false, false, true⟩ ∧ ccOfOrd c .unordered = c.unorderedCC
      ∧ (c.AtDefaults → ccOfOrd c .unordered = ⟨false, false, false⟩))
    ∧ (∀ r c : CC, ccMatch r c = true ↔
      (r.n = true ∧ c.n = true) ∨ (r.z = true ∧ c.z = true) ∨ (r.p = true ∧ c.p = true))
    ∧ (∀ c : CC, ccMatch CC.none c = false) ∧ (∀ r : CC, ccMatch r CC.none = false)
    ∧ (∀ c : CC, ccMatch ⟨true, true, true⟩ c = (c.n || c.z || c.p))

/-- The unit's flag bits take `CC_RESET` on `rst`, `cc_new` where `cc_we` is 1, and else keep their
value; `cc_new` is selected by `cc_sel`. (Where `rst` and `cc_we` are both 1: `ResetValues`.) -/
def Obligations.FlagRegisterHoldsOrTakes : Prop :=
  ∀ (c : Config) (cc : CC) (i : CcuInput),
    (i.rst = true → i.ccWe = false → ccuNext c cc i = c.ccReset)
      ∧ (i.rst = false → i.ccWe = true → ccuNext c cc i = (ccuOutput c cc i).ccNew)
      ∧ (i.rst = false → i.ccWe = false → ccuNext c cc i = cc)
      ∧ (i.ccSel = false → (ccuOutput c cc i).ccNew = ccOfInt i.ccRes)
      ∧ (i.ccSel = true → ∀ o, i.ccOrd = portOfOrder o → (ccuOutput c cc i).ccNew = ccOfOrd c o)
      ∧ (ccuOutput c cc i).cmpMatch = ccMatch i.req (ccuOutput c cc i).ccNew
      ∧ (ccuOutput c cc i).jmpTaken = ccMatch i.req cc

/-- HEADLINE. In every step of the machine that takes no trap, the flags, the compare result and the
jump decision are those of the unit `CCU` driven by the decoder's control record: there are a result
and an ordering to present on its ports such that the flags after the step are the unit's, the
destination of a flag-writing integer opcode is that result, a compare writes `cmp_match` as 1 or 0,
and JMP goes to its target iff `jmp_taken`. -/
def Obligations.StepFlagsAreTheUnits : Prop :=
  ∀ (s t : State) (w : Word), s.cfg.AtDefaults → s.runState = .running → s.fetch = some w →
    step s = .next t → t.trapped = false →
    ∃ (res : Cell) (o : CmpOrder),
      let d := decOutput s.cfg w
      let i : CcuInput := ⟨false, d.ctl.ccWe, d.ctl.ccSel, res, portOfOrder o, d.fields.req⟩
      t.cc = ccuNext s.cfg s.cc i
        ∧ (d.ctl.ccWe = true → d.ctl.ccSel = false → t.reg d.fields.dr = res)
        ∧ (d.ctl.ccSel = true →
            t.reg d.fields.dr = if (ccuOutput s.cfg s.cc i).cmpMatch then 1#64 else 0#64)
        ∧ (s.cfg.opOfCode d.fields.op = some .jmp →
            t.pc = if (ccuOutput s.cfg s.cc i).jmpTaken then s.pc + 1#64 + d.immx else s.pc + 1#64)

/-! ## Operands -/

/-- The second operand: the immediate sign-extended, the same integer in 64 bits, or a register. `immf`
chooses for the opcodes of `IMM_HONOURED` that have a payload (under tables other than the defaults the
model's reading, log entry 7); by default, of the others, the floating-point opcodes always take the
register and the offsets are always the immediate. -/
def Obligations.SecondOperandForms : Prop :=
  (∀ (s : State) (r : Reg), s.operand (.reg r) = s.reg r)
    ∧ (∀ (s : State) (v : Imm), (s.operand (.imm v)).toInt = v.toInt)
    ∧ (∀ (c : Config) (w : Word) (op : Op), op ∈ c.immHonoured → (c.usesOf op).payload ≠ .unused →
        ((decodeFields w).used c op).operand =
          if (decodeFields w).immf then .imm (decodeFields w).imm else .reg (decodeFields w).sr2)
    ∧ (∀ (c : Config) (w : Word), c.AtDefaults →
        (∀ op ∈ Config.defaultImmHonoured, ((decodeFields w).used c op).operand =
            if (decodeFields w).immf then .imm (decodeFields w).imm else .reg (decodeFields w).sr2)
          ∧ (∀ op ∈ [Op.addF, .subF, .mulF, .divF, .cmpF],
            ((decodeFields w).used c op).operand = .reg (decodeFields w).sr2)
          ∧ (∀ op ∈ [Op.ldsp, .stsp, .ldfp, .stfp, .ldap, .stap, .jmp, .ld, .st, .ldi, .sti],
            ((decodeFields w).used c op).operand = .imm (decodeFields w).imm))

/-! ## Integer arithmetic -/

/-- ADD.I, SUB.I, MUL.I and NEG.I write the result modulo 2^64 and its flags, and under
`INT_OVERFLOW = trap` trap where the exact result does not fit. -/
def Obligations.IntegerArithmeticResults : Prop :=
  ∀ (s : State) (rd ra : Reg) (b : Operand), s.cfg.ccWriters = Config.defaultCcWriters →
    IntegerResult (.addI rd ra b) s rd ((s.reg ra).toInt + (s.operand b).toInt)
        (s.reg ra + s.operand b)
      ∧ IntegerResult (.subI rd ra b) s rd ((s.reg ra).toInt - (s.operand b).toInt)
        (s.reg ra - s.operand b)
      ∧ IntegerResult (.mulI rd ra b) s rd ((s.reg ra).toInt * (s.operand b).toInt)
        (s.reg ra * s.operand b)
      ∧ IntegerResult (.negI rd ra) s rd (-(s.reg ra).toInt) (0#64 - s.reg ra)

/-- DIV.I: a zero divisor traps, then -2^63 by -1, and else the quotient rounded toward zero and its
flags are written. -/
def Obligations.DivideResultsAndTraps : Prop :=
  ∀ (s : State) (rd ra : Reg) (b : Operand), s.cfg.ccWriters = Config.defaultCcWriters →
    (s.operand b = 0#64 →
        ∃ t, exec (.divI rd ra b) s = .next t ∧ Traps s t .divideByZero (s.pc - 1#64))
      ∧ ((s.reg ra).toInt = -2 ^ 63 → (s.operand b).toInt = -1 →
        ∃ t, exec (.divI rd ra b) s = .next t ∧ Traps s t .divideOverflow (s.pc - 1#64))
      ∧ (s.operand b ≠ 0#64 → ¬((s.reg ra).toInt = -2 ^ 63 ∧ (s.operand b).toInt = -1) →
        ∃ t q, exec (.divI rd ra b) s = .next t ∧ WritesRegFlags s t rd q (ccOfInt q)
          ∧ q.toInt = (s.reg ra).toInt.tdiv (s.operand b).toInt)

/-! ## Floating point -/

/-- ADD.F, SUB.F, MUL.F and DIV.F write the numeric result, or some NaN, and leave the flags; NEG.F
inverts the sign bit. That a NaN result draws one free value is the model's choice (log entry 12), and
an immediate as the second operand, which no word gives by default, its reading (log entry 7). -/
def Obligations.FloatArithmeticResults : Prop :=
  ∀ (s : State) (rd ra : Reg) (b : Operand), s.cfg.ccWriters = Config.defaultCcWriters →
    let r := s.cfg.fp.rounding
    FloatResult (.addF rd ra b) s rd (fpAdd r (s.reg ra) (s.operand b))
      ∧ FloatResult (.subF rd ra b) s rd (fpSub r (s.reg ra) (s.operand b))
      ∧ FloatResult (.mulF rd ra b) s rd (fpMul r (s.reg ra) (s.operand b))
      ∧ FloatResult (.divF rd ra b) s rd (fpDiv r (s.reg ra) (s.operand b))
      ∧ ∃ t, exec (.negF rd ra) s = .next t
          ∧ WritesReg s t rd (s.reg ra ^^^ 0x8000000000000000#64)

/-- What floating-point arithmetic computes: on finite operands the exact result rounded once, and the
cases that are not a rounded number. The results with infinities that are no NaN, and the sign of a
zero quotient, are the model's reading of IEEE-754 (log entry 14). -/
def Obligations.FloatSpecialCases : Prop :=
  (∀ c : Cell, isNan c = true ↔
      c.extractLsb' 52 11 = 0x7FF#11 ∧ c.extractLsb' 0 52 ≠ 0#52)
    ∧ ∀ r : Rounding,
      (∀ a b : Cell, isNan a = true ∨ isNan b = true →
        fpAdd r a b = none ∧ fpSub r a b = none ∧ fpMul r a b = none ∧ fpDiv r a b = none)
      ∧ (∀ (a b : Cell) (s t : Bool) (j k : Nat), fpValue a = .fin s j → fpValue b = .fin t k →
        (∀ v, v = signed s j + signed t k → v ≠ 0 →
            fpAdd r a b = some (fpRound r (decide (v < 0)) v.natAbs 1))
          ∧ (∀ v, v = signed s j - signed t k → v ≠ 0 →
            fpSub r a b = some (fpRound r (decide (v < 0)) v.natAbs 1))
          ∧ fpMul r a b = some (fpRound r (s ^^ t) (j * k) (2 ^ 1074))
          ∧ (k ≠ 0 → fpDiv r a b = some (fpRound r (s ^^ t) (j * 2 ^ 1074) k)))
      ∧ (∀ s t : Bool, fpAdd r (fpInf s) (fpInf t) = if s = t then some (fpInf s) else none)
      ∧ (∀ s t : Bool, fpSub r (fpInf s) (fpInf t) = if s = t then none else some (fpInf s))
      ∧ (∀ s t : Bool, fpMul r (fpZero s) (fpInf t) = none ∧ fpMul r (fpInf t) (fpZero s) = none)
      ∧ (∀ s t : Bool, fpMul r (fpInf s) (fpInf t) = some (fpInf (s ^^ t)))
      ∧ (∀ s t : Bool, fpDiv r (fpZero s) (fpZero t) = none ∧ fpDiv r (fpInf s) (fpInf t) = none)
      ∧ (∀ (a : Cell) (s t : Bool) (k : Nat), fpValue a = .fin s k →
        fpAdd r a (fpInf t) = some (fpInf t) ∧ fpAdd r (fpInf t) a = some (fpInf t)
          ∧ fpSub r a (fpInf t) = some (fpInf !t) ∧ fpSub r (fpInf t) a = some (fpInf t)
          ∧ fpDiv r a (fpInf t) = some (fpZero (s ^^ t)) ∧ fpDiv r (fpInf t) a = some (fpInf (s ^^ t))
          ∧ (k ≠ 0 → fpMul r a (fpInf t) = some (fpInf (s ^^ t))
            ∧ fpMul r (fpInf t) a = some (fpInf (s ^^ t)) ∧ fpDiv r a (fpZero t) = some (fpInf (s ^^ t))))
      ∧ (r ≠ .towardNegative →
        fpAdd r (fpZero false) (fpZero true) = some (fpZero false)
          ∧ ∀ (a : Cell) (s : Bool) (k : Nat), fpValue a = .fin s k →
            fpSub r a a = some (fpZero false))

/-- The default rounding is to nearest, ties to even: no finite binary64 is nearer to `n / d` units
than the rounded one, and where another is as near the rounded one has an even last bit; the result is
infinite exactly where `n / d` lies at or above the middle between the greatest finite value and the
next power of two. That threshold is the model's reading of IEEE-754 (log entry 14). -/
def Obligations.RoundingIsToNearestEven : Prop :=
  ∀ (neg : Bool) (n d : Nat), 0 < d →
    let q := roundMag .nearestEven neg n d
    fpRound .nearestEven neg n d = fpCell neg q
      ∧ (q < fpInfMag → ∀ m, m < fpInfMag → distance n d q ≤ distance n d m
          ∧ (distance n d m = distance n d q → m ≠ q → q % 2 = 0))
      ∧ (q = fpInfMag ↔ d * ((2 ^ 54 - 1) * 2 ^ 2044) ≤ n)

/-- Rounding an exactly representable value returns it, in every direction and whatever its sign;
subnormals are exact. -/
def Obligations.ExactValuesAreNotRounded : Prop :=
  ∀ (r : Rounding) (c : Cell) (neg : Bool) (k d : Nat), 0 < d → fpValue c = .fin neg k →
    fpRound r neg (k * d) d = c

/-- The floating-point ordering: a NaN is unordered with everything, the zeros are equal, the
infinities lie outside every finite value and minus infinity below plus infinity, finite values are
ordered as numbers, and exchanging the operands exchanges less and greater. -/
def Obligations.FloatOrdering : Prop :=
  (∀ a b : Cell, fpOrder a b = .unordered ↔ isNan a = true ∨ isNan b = true)
    ∧ (∀ a b : Cell, fpOrder a b = .less ↔ fpOrder b a = .greater)
    ∧ (∀ a : Cell, isNan a = false → fpOrder a a = .equal)
    ∧ (∀ s t : Bool, fpOrder (fpZero s) (fpZero t) = .equal)
    ∧ (∀ (b : Cell) (t : Bool) (k : Nat), fpValue b = .fin t k →
        fpOrder (fpInf true) b = .less ∧ fpOrder (fpInf false) b = .greater)
    ∧ fpOrder (fpInf true) (fpInf false) = .less
    ∧ (∀ (a b : Cell) (s t : Bool) (j k : Nat), fpValue a = .fin s j → fpValue b = .fin t k →
        ((fpOrder a b = .less ↔ signed s j < signed t k)
          ∧ (fpOrder a b = .equal ↔ signed s j = signed t k)))

/-- ITOF writes the integer rounded to binary64, FTOI the value truncated toward zero; where the
truncation does not fit, and for a NaN or an infinity, FTOI completes with any value: the model's
choice where R244 leaves any value or a refusal (log entry 13), as is the one free value drawn. Neither
writes the flags. -/
def Obligations.ConversionResults : Prop :=
  ∀ (s : State) (rd ra : Reg), s.cfg.ccWriters = Config.defaultCcWriters →
    (∃ t, exec (.itof rd ra) s = .next t ∧ WritesReg s t rd
        (fpRound s.cfg.fp.rounding (decide ((s.reg ra).toInt < 0)) ((s.reg ra).toInt.natAbs * 2 ^ 1074) 1))
      ∧ (∀ (neg : Bool) (k : Nat), fpValue (s.reg ra) = .fin neg k →
          -2 ^ 63 ≤ signed neg (k / 2 ^ 1074) → signed neg (k / 2 ^ 1074) ≤ 2 ^ 63 - 1 →
          ∃ t, exec (.ftoi rd ra) s = .next t
            ∧ WritesReg s t rd (BitVec.ofInt 64 (signed neg (k / 2 ^ 1074))))
      ∧ (∀ (neg : Bool) (k : Nat), fpValue (s.reg ra) = .fin neg k →
          signed neg (k / 2 ^ 1074) < -2 ^ 63 ∨ 2 ^ 63 - 1 < signed neg (k / 2 ^ 1074) →
          ∃ t, exec (.ftoi rd ra) s = .next t ∧ WritesFree s t rd fun _ => True)
      ∧ ((∀ (neg : Bool) (k : Nat), fpValue (s.reg ra) ≠ .fin neg k) →
          ∃ t, exec (.ftoi rd ra) s = .next t ∧ WritesFree s t rd fun _ => True)

/-- An integer of magnitude up to 2^53 survives the conversion to floating point and back. -/
def Obligations.SmallIntegersConvertExactly : Prop :=
  ∀ (r : Rounding) (v : Int), v.natAbs ≤ 2 ^ 53 → fpToInt (fpOfInt r v) = some (BitVec.ofInt 64 v)

/-! ## Bitwise and shift -/

/-- AND, OR, XOR and NOT act on all 64 bits, BNOT writes 1 for a zero operand and else 0; each writes
the flags of its result. -/
def Obligations.BitwiseResults : Prop :=
  ∀ (s : State) (rd ra : Reg) (b : Operand), s.cfg.ccWriters = Config.defaultCcWriters →
    (∃ t r, exec (.and rd ra b) s = .next t ∧ WritesRegFlags s t rd r (ccOfInt r)
        ∧ ∀ i, i < 64 → r.getLsbD i = ((s.reg ra).getLsbD i && (s.operand b).getLsbD i))
      ∧ (∃ t r, exec (.or rd ra b) s = .next t ∧ WritesRegFlags s t rd r (ccOfInt r)
        ∧ ∀ i, i < 64 → r.getLsbD i = ((s.reg ra).getLsbD i || (s.operand b).getLsbD i))
      ∧ (∃ t r, exec (.xor rd ra b) s = .next t ∧ WritesRegFlags s t rd r (ccOfInt r)
        ∧ ∀ i, i < 64 → r.getLsbD i = ((s.reg ra).getLsbD i ^^ (s.operand b).getLsbD i))
      ∧ (∃ t r, exec (.not rd ra) s = .next t ∧ WritesRegFlags s t rd r (ccOfInt r)
        ∧ ∀ i, i < 64 → r.getLsbD i = !(s.reg ra).getLsbD i)
      ∧ (∃ t, exec (.bnot rd ra) s = .next t ∧
          if s.reg ra = 0#64 then WritesRegFlags s t rd 1#64 ⟨false, false, true⟩
          else WritesRegFlags s t rd 0#64 ⟨false, true, false⟩)

/-- SHL and SHR by the low six bits of the second operand, and for an operand up to 63 by that operand
whatever `SHIFT_AMOUNT` is: SHL multiplies by a power of two modulo 2^64, SHR divides the signed value
by it rounding toward minus infinity; each writes the flags. -/
def Obligations.ShiftResults : Prop :=
  ∀ (s : State) (rd ra : Reg) (b : Operand) (k : Nat),
    s.cfg.ccWriters = Config.defaultCcWriters →
    (s.cfg.shiftAmount = .lowSix ∧ k = (s.operand b).toNat % 64)
      ∨ ((s.operand b).toNat ≤ 63 ∧ k = (s.operand b).toNat) →
    (∃ t r, exec (.shl rd ra b) s = .next t ∧ WritesRegFlags s t rd r (ccOfInt r)
        ∧ r.toNat = (s.reg ra).toNat * 2 ^ k % 2 ^ 64)
      ∧ (∃ t r, exec (.shr rd ra b) s = .next t ∧ WritesRegFlags s t rd r (ccOfInt r)
        ∧ r.toInt = (s.reg ra).toInt / 2 ^ k)

/-! ## Compare -/

/-- CMP.I compares the signed integers themselves: the flags take the raw comparison and the
destination is 1 iff the request holds of the two integers, else 0. -/
def Obligations.IntegerCompareResults : Prop :=
  ∀ (s : State) (req : CC) (rd ra : Reg) (b : Operand),
    s.cfg.ccWriters = Config.defaultCcWriters →
    let x := (s.reg ra).toInt
    let y := (s.operand b).toInt
    ∃ t v, exec (.cmpI req rd ra b) s = .next t
      ∧ WritesRegFlags s t rd v ⟨decide (x < y), decide (x = y), decide (y < x)⟩
      ∧ ((req.n = true ∧ x < y) ∨ (req.z = true ∧ x = y) ∨ (req.p = true ∧ y < x) → v = 1#64)
      ∧ (¬((req.n = true ∧ x < y) ∨ (req.z = true ∧ x = y) ∨ (req.p = true ∧ y < x)) → v = 0#64)

/-- CMP.F: the flags take the raw comparison of the two values and the destination is 1 iff a
requested flag is among them; with a NaN the flags are `UNORDERED_CC`. An immediate as the second
operand, which no word gives by default, is the model's reading (log entry 7). -/
def Obligations.FloatCompareResults : Prop :=
  ∀ (s : State) (req : CC) (rd ra : Reg) (b : Operand),
    s.cfg.ccWriters = Config.defaultCcWriters →
    let raw := ccOfOrd s.cfg (fpOrder (s.reg ra) (s.operand b))
    (∃ t, exec (.cmpF req rd ra b) s = .next t
        ∧ WritesRegFlags s t rd (if ccMatch req raw then 1#64 else 0#64) raw)
      ∧ (isNan (s.reg ra) = true ∨ isNan (s.operand b) = true → s.cfg.AtDefaults →
        ∃ t, exec (.cmpF req rd ra b) s = .next t ∧ WritesRegFlags s t rd 0#64 CC.none)

/-! ## Memory -/

/-- LDR, LDSP, LDFP, LDAP and LD load the cell at their effective address, or trap; by default, and
wherever they are outside `CC_WRITERS`, they leave the flags. A register as the offset of LDSP, LDFP,
LDAP or LD, which no word gives by default, is the model's reading (log entry 7). -/
def Obligations.LoadsReadTheAddressedCell : Prop :=
  ∀ (s : State) (rd ra : Reg) (b : Operand),
    LoadsFrom (.ldr rd ra b) s rd (s.reg ra + s.operand b)
      ∧ LoadsFrom (.ldsp rd b) s rd (s.reg 14#4 + s.operand b)
      ∧ LoadsFrom (.ldfp rd b) s rd (s.reg 13#4 + s.operand b)
      ∧ (∀ p : Reg, s.cfg.apReg = p.toNat →
          LoadsFrom (.ldap rd b) s rd (s.reg p + s.operand b))
      ∧ LoadsFrom (.ld rd b) s rd (s.pc + s.operand b)

/-- STR, STSP, STFP, STAP and ST store their data register into the cell at their effective address,
and no other cell changes; or they trap. A register as the offset of STSP, STFP, STAP or ST, which no
word gives by default, is the model's reading (log entry 7). -/
def Obligations.StoresWriteTheAddressedCell : Prop :=
  ∀ (s : State) (rs ra : Reg) (b : Operand),
    StoresTo (.str rs ra b) s rs (s.reg ra + s.operand b)
      ∧ StoresTo (.stsp rs b) s rs (s.reg 14#4 + s.operand b)
      ∧ StoresTo (.stfp rs b) s rs (s.reg 13#4 + s.operand b)
      ∧ (∀ p : Reg, s.cfg.apReg = p.toNat →
          StoresTo (.stap rs b) s rs (s.reg p + s.operand b))
      ∧ StoresTo (.st rs b) s rs (s.pc + s.operand b)

/-- LDI and STI read the pointer cell at `npc + I` and then load or store at the cell it names; the
pointer cell is checked first. A register as `I`, which no word gives by default, is the model's reading
(log entry 7). -/
def Obligations.IndirectAccessesFollowThePointer : Prop :=
  ∀ (s : State) (r : Reg) (b : Operand),
    let ea := s.pc + s.operand b
    (ea.toNat < s.cfg.memCells →
        LoadsFrom (.ldi r b) s r (s.cell ea.toNat) ∧ StoresTo (.sti r b) s r (s.cell ea.toNat))
      ∧ (s.cfg.memCells ≤ ea.toNat →
        (∃ t, exec (.ldi r b) s = .next t ∧ Traps s t .memOutOfRange ea)
          ∧ ∃ t, exec (.sti r b) s = .next t ∧ Traps s t .memOutOfRange ea)

/-- LDAP and STAP where `AP_REG` names no register trap, the one way a register index can be out of
range. That the check comes first is the model's choice (log entry 20). -/
def Obligations.MisconfiguredArgumentPointerTraps : Prop :=
  ∀ (s : State) (r : Reg) (b : Operand), 16 ≤ s.cfg.apReg →
    (∃ t, exec (.ldap r b) s = .next t
        ∧ Traps s t .registerOutOfRange (BitVec.ofNat 64 s.cfg.apReg))
      ∧ ∃ t, exec (.stap r b) s = .next t
        ∧ Traps s t .registerOutOfRange (BitVec.ofNat 64 s.cfg.apReg)

/-- PUSH increments R14 and then stores: the data register is read after the increment, and an
address out of range traps with R14 unchanged. -/
def Obligations.PushIncrementsThenStores : Prop :=
  ∀ (s : State) (rs : Reg),
    let a := s.reg 14#4 + 1#64
    (a.toNat < s.cfg.memCells → ∃ t, exec (.push rs) s = .next t ∧ t.reg 14#4 = a
        ∧ SameRegsBut 14#4 s t ∧ t.cell a.toNat = (if rs = 14#4 then a else s.reg rs)
        ∧ (∀ c, c ≠ a.toNat → t.cell c = s.cell c) ∧ t.cc = s.cc ∧ t.pc = s.pc
        ∧ t.draws = s.draws ∧ SameRest s t)
      ∧ (s.cfg.memCells ≤ a.toNat → ∃ t, exec (.push rs) s = .next t ∧ Traps s t .memOutOfRange a)

/-- POP loads the cell R14 names and then decrements R14, after the write of the destination; R14 of
0 is a stack underflow and an address out of range a memory trap. By default, and wherever POP is
outside `CC_WRITERS`, the flags stay. -/
def Obligations.PopLoadsThenDecrements : Prop :=
  ∀ (s : State) (rd : Reg),
    let a := s.reg 14#4
    (a = 0#64 → ∃ t, exec (.pop rd) s = .next t ∧ Traps s t .stackUnderflow (s.pc - 1#64))
      ∧ (a ≠ 0#64 → s.cfg.memCells ≤ a.toNat →
        ∃ t, exec (.pop rd) s = .next t ∧ Traps s t .memOutOfRange a)
      ∧ (a ≠ 0#64 → a.toNat < s.cfg.memCells → rd = 14#4 →
        ∃ t f, exec (.pop rd) s = .next t ∧ WritesRegFlags s t 14#4 (s.cell a.toNat - 1#64) f
          ∧ KeepsFlags (.pop rd) s f)
      ∧ (a ≠ 0#64 → a.toNat < s.cfg.memCells → rd ≠ 14#4 →
        ∃ t, exec (.pop rd) s = .next t ∧ t.reg rd = s.cell a.toNat ∧ t.reg 14#4 = a - 1#64
          ∧ (∀ q, q ≠ rd → q ≠ 14#4 → t.reg q = s.reg q) ∧ KeepsFlags (.pop rd) s t.cc
          ∧ t.pc = s.pc ∧ SameMem s t ∧ t.draws = s.draws ∧ SameRest s t)

/-- A push followed by a pop restores the stack pointer and gives the pushed value back; the flags stay
by default, and wherever POP is outside `CC_WRITERS`. -/
def Obligations.PushThenPopRestores : Prop :=
  ∀ (s : State) (rs rd : Reg), rs ≠ 14#4 → rd ≠ 14#4 → s.reg 14#4 + 1#64 ≠ 0#64 →
    (s.reg 14#4 + 1#64).toNat < s.cfg.memCells →
    ∃ t u, exec (.push rs) s = .next t ∧ exec (.pop rd) t = .next u
      ∧ u.reg 14#4 = s.reg 14#4 ∧ u.reg rd = s.reg rs
      ∧ (∀ q, q ≠ rd → u.reg q = s.reg q) ∧ KeepsFlags (.pop rd) s u.cc

/-- The bound check precedes the access: an index at or above `MEM_CELLS` raises `MemOutOfRange` with
that index and changes nothing else; a write in range is what the cell reads as, and no other cell
changes. -/
def Obligations.MemoryPrimitives : Prop :=
  (∀ (s : State) (a : Cell) (k : Cell → State),
      (s.cfg.memCells ≤ a.toNat → Traps s (s.withLoad a k) .memOutOfRange a)
        ∧ (a.toNat < s.cfg.memCells → s.withLoad a k = k (s.cell a.toNat)))
    ∧ (∀ (s : State) (a v : Cell),
      (s.cfg.memCells ≤ a.toNat → Traps s (s.store a v) .memOutOfRange a)
        ∧ (a.toNat < s.cfg.memCells → WritesCell s (s.store a v) a.toNat v))

/-- A store into the cell of the next instruction, by any store-like opcode, is seen by the very next
fetch. A register as the offset of STSP to STI, which no word gives by default, is the model's reading
(log entry 7). -/
def Obligations.StoreIsSeenByTheNextFetch : Prop :=
  ∀ (s : State) (i : Instr) (v : Cell), Fetches s i →
    storeOf { s with pc := s.pc + 1#64 } i = some (s.pc + 1#64, v) →
    (s.pc + 1#64).toNat < s.cfg.memCells →
    ∃ t, step s = .next t ∧ t.pc = s.pc + 1#64 ∧ t.runState = .running ∧ t.fetch = some v

/-- The loader places word `i` of the stream in cell `i` and word `k` of the pool in cell `3000 + k`,
and changes no other cell and nothing else. Two clauses are the model's choice: where a stream of more
than 3000 words meets the pool, the pool's word stands there (log entry 25); and a word at an index of
`MEM_CELLS` or more, where there is no cell (R36), is listed there with no check (log entry 28). -/
def Obligations.LoaderPlacesStreamAndPool : Prop :=
  ∀ (s : State) (stream pool : List Cell),
    let t := s.loadProgram stream pool
    (∀ (i : Nat) (v : Cell), stream[i]? = some v → i < 3000 ∨ 3000 + pool.length ≤ i → t.cell i = v)
      ∧ (∀ (k : Nat) (v : Cell), pool[k]? = some v → t.cell (3000 + k) = v)
      ∧ (∀ a, stream.length ≤ a → a < 3000 ∨ 3000 + pool.length ≤ a → t.cell a = s.cell a)
      ∧ SameRegs s t ∧ t.pc = s.pc ∧ t.cc = s.cc ∧ t.draws = s.draws ∧ SameRest s t

/-! ## Control transfer -/

/-- JMP goes to `npc + I` iff a requested flag is set in the stored flags and else does nothing; with
no flag requested, or none set, it is never taken. A register as `I`, which no word gives by default, is
the model's reading (log entry 7). -/
def Obligations.JumpIsTakenOnARequestedFlag : Prop :=
  ∀ (s : State) (req : CC) (b : Operand),
    ((req.n = true ∧ s.cc.n = true) ∨ (req.z = true ∧ s.cc.z = true)
        ∨ (req.p = true ∧ s.cc.p = true) →
      exec (.jmp req b) s = .next { s with pc := s.pc + s.operand b })
    ∧ (¬((req.n = true ∧ s.cc.n = true) ∨ (req.z = true ∧ s.cc.z = true)
        ∨ (req.p = true ∧ s.cc.p = true)) → exec (.jmp req b) s = .next s)
    ∧ (req = CC.none ∨ s.cc = CC.none → exec (.jmp req b) s = .next s)

/-- CALL saves `npc` in R15 and goes to the register's value, read after R15 is written; RET goes to
the value of R15. Neither touches anything else. -/
def Obligations.CallSavesAndReturnRestores : Prop :=
  ∀ (s : State) (ra : Reg),
    (∃ t, exec (.call ra) s = .next t ∧ t.reg 15#4 = s.pc ∧ SameRegsBut 15#4 s t
        ∧ t.pc = (if ra = 15#4 then s.pc else s.reg ra) ∧ t.cc = s.cc ∧ SameMem s t
        ∧ t.draws = s.draws ∧ SameRest s t)
      ∧ exec .ret s = .next { s with pc := s.reg 15#4 }

/-! ## Input, output, no-op and halt -/

/-- PUTC appends the low byte of its register to the output, NOP does nothing, and HALT only stops the
machine, which no step then changes. -/
def Obligations.PutcNopAndHaltResults : Prop :=
  ∀ (s : State) (ra : Reg),
    exec (.putc ra) s = .next { s with output := s.output ++ [(s.reg ra).setWidth 8] }
      ∧ exec .nop s = .next s ∧ exec .halt s = .next { s with runState := .halted }
      ∧ (s.runState = .halted → ∀ t, step s = .next t → t = s)

/-- GETC takes the next input byte, zero-extended; the flags stay by default, and wherever GETC is
outside `CC_WRITERS`. -/
def Obligations.GetcTakesTheNextByte : Prop :=
  ∀ (s : State) (rd : Reg) (b : Byte) (rest : List Byte), s.input = b :: rest →
    ∃ t, exec (.getc rd) s = .next t ∧ (t.reg rd).toNat = b.toNat ∧ SameRegsBut rd s t
      ∧ t.input = rest ∧ t.inputRead = s.inputRead ++ [b] ∧ t.output = s.output
      ∧ KeepsFlags (.getc rd) s t.cc
      ∧ t.pc = s.pc ∧ SameMem s t ∧ t.draws = s.draws ∧ t.cfg = s.cfg ∧ t.runState = s.runState
      ∧ t.illegalSeen = s.illegalSeen ∧ t.inputEnded = s.inputEnded

/-- A GETC with no byte available does not complete: the step leaves the machine as it was (log entry
10). The model's choice (log entry 11): the same at the end of input where `GETC_EOF` blocks, and a
refusal by name where it refuses. -/
def Obligations.GetcWaitsForInput : Prop :=
  ∀ (s : State) (rd : Reg), Fetches s (.getc rd) → s.input = [] →
    (s.inputEnded = false ∨ s.cfg.getcEof = .block → step s = .next s)
      ∧ (s.inputEnded = true → s.cfg.getcEof = .refuse → step s = .refused .endOfInput)

/-- The input bytes are read in order, each once: what was read followed by what is left never
changes; and the output only grows, by a byte at a time and only in PUTC. -/
def Obligations.StreamsMoveInOrder : Prop :=
  ∀ s t : State, step s = .next t →
    t.inputRead ++ t.input = s.inputRead ++ s.input
      ∧ (t.output = s.output ∨ ∃ ra, Fetches s (.putc ra)
          ∧ t.output = s.output ++ [(s.reg ra).setWidth 8])
      ∧ (t.input = s.input ∨ ∃ rd b, Fetches s (.getc rd) ∧ s.input = b :: t.input)

/-! ## The step -/

/-- When the word at the counter decodes to a well-formed instruction, the step is the meaning of that
instruction in the state with the counter advanced by one; and a word placed where the next step
fetches is what that step runs. -/
def Obligations.StepRunsTheDecodedInstruction : Prop :=
  (∀ (s : State) (i : Instr), Fetches s i →
      i.wellFormed s.cfg = true ∧ step s = exec i { s with pc := s.pc + 1#64 })
    ∧ (∀ (s : State) (w : Word) (i : Instr), s.runState = .running →
      s.pc.toNat < s.cfg.memCells → decode s.cfg w = .ok i →
      step (s.withFetchWord 64 w.toNat) =
        exec i { s.withFetchWord 64 w.toNat with pc := s.pc + 1#64 })

/-- An unassigned opcode: under `skip` the counter advances and `illegal_seen` is set, nothing else;
under `trap` the machine takes `IllegalOpcode` with the word. By default these are the numbers 42 to
63. -/
def Obligations.UnassignedOpcodesAreSkippedOrTrap : Prop :=
  (∀ (s : State) (w : Word) (r : DecodeReject), s.runState = .running → s.fetch = some w →
      decode s.cfg w = .error r →
      (s.cfg.illegalPolicy = .skip →
          step s = .next { s with pc := s.pc + 1#64, illegalSeen := true })
        ∧ (s.cfg.illegalPolicy = .trap →
          step s = .next { s with pc := s.pc + 1#64, runState := .faulted .illegalOpcode w }))
    ∧ (∀ (c : Config) (w : Word), c.AtDefaults →
      ((∃ r, decode c w = .error r) ↔ 42 ≤ (decodeFields w).op.toNat))

/-- A counter outside memory raises `MemOutOfRange` at the fetch, with the counter holding the bad
address. -/
def Obligations.FetchOutsideMemoryTraps : Prop :=
  ∀ s : State, s.runState = .running → s.cfg.memCells ≤ s.pc.toNat →
    step s = .next { s with runState := .faulted .memOutOfRange s.pc }

/-- HALTED and FAULTED are terminal. The model's choice (log entries 8 and 9): a HALTED machine's
steps leave it as it is, and a FAULTED machine's step answers the trap. -/
def Obligations.TerminalStatesMakeNoStep : Prop :=
  (∀ (s : State) (k : Nat), s.runState = .halted → Host.Core.run Sys2Proof.core k s = .next s)
    ∧ (∀ (s : State) (k : Nat) (c : TrapCause) (i : Cell), s.runState = .faulted c i →
      Host.Core.run Sys2Proof.core (k + 1) s = .fault (.fatalTrap c i))

/-- Two HALTED ends of runs from one state, with `illegal_seen` 0, are the same state. That these are the
ends that count is the model's reading (log entry 24); of an end that skipped an unassigned opcode, and
of a FAULTED one, this says nothing. -/
def Obligations.TheEndOfARunIsUnique : Prop :=
  ∀ s t u : State, HaltsWith s t → HaltsWith s u → t = u

/-! ## Traps -/

/-- HEADLINE. Traps are precise: the step that takes a fatal trap writes no register, no memory cell,
no flag and no stream; the counter is advanced, except on a fetch fault, where it holds the address
that could not be fetched. -/
def Obligations.TrapsArePrecise : Prop :=
  ∀ (s t : State) (c : TrapCause) (i : Cell), s.runState = .running → step s = .next t →
    t.runState = .faulted c i →
    (s.fetch ≠ none ∧ t = { s with pc := s.pc + 1#64, runState := .faulted c i })
      ∨ (s.fetch = none ∧ c = .memOutOfRange ∧ i = s.pc
        ∧ t = { s with runState := .faulted .memOutOfRange s.pc })

/-- HEADLINE. Each cause is raised only where the table of causes says, with the information it says. -/
def Obligations.CausesAriseOnlyAsListed : Prop :=
  ∀ (s t : State) (c : TrapCause) (i : Cell), s.runState = .running → step s = .next t →
    t.runState = .faulted c i →
    (c = .memOutOfRange → s.cfg.memCells ≤ i.toNat ∧ ((s.fetch = none ∧ i = s.pc)
        ∨ ∃ j, Fetches s j ∧ j.op ∈ [Op.ldr, .str, .push, .pop, .ldsp, .stsp, .ldfp, .stfp, .ldap,
            .stap, .ld, .st, .ldi, .sti]))
      ∧ (c = .divideByZero → ∃ rd ra b, Fetches s (.divI rd ra b) ∧ s.operand b = 0#64 ∧ i = s.pc)
      ∧ (c = .divideOverflow → ∃ rd ra b, Fetches s (.divI rd ra b)
          ∧ (s.reg ra).toInt = -2 ^ 63 ∧ (s.operand b).toInt = -1 ∧ i = s.pc)
      ∧ (c = .stackUnderflow → ∃ rd, Fetches s (.pop rd) ∧ s.reg 14#4 = 0#64 ∧ i = s.pc)
      ∧ (c = .registerOutOfRange → 16 ≤ s.cfg.apReg ∧ i = BitVec.ofNat 64 s.cfg.apReg
          ∧ ∃ j, Fetches s j ∧ j.op ∈ [Op.ldap, .stap])
      ∧ (c = .illegalOpcode → s.cfg.illegalPolicy = .trap ∧ s.fetch = some i
          ∧ (decOutput s.cfg i).valid = false)
      ∧ (c = .integerOverflow → s.cfg.intOverflow = .trap ∧ i = s.pc
          ∧ ∃ j v, Fetches s j ∧ exactResult s j = some v ∧ (v < -2 ^ 63 ∨ 2 ^ 63 ≤ v))

/-! ## Whole-machine rules -/

/-- How each instruction leaves the counter, a trap included; and so does an unassigned opcode. A GETC
that waits for input is the one instruction that does not complete. A register as the offset of JMP,
which no word gives by default, is the model's reading (log entry 7). -/
def Obligations.CounterAfterEachInstruction : Prop :=
  (∀ (s t : State) (i : Instr), Fetches s i → step s = .next t →
      (∀ rd, i = .getc rd → s.input ≠ []) →
      (∀ req b, i = .jmp req b → t.pc =
          if ccMatch req s.cc then s.pc + 1#64 + s.operand b else s.pc + 1#64)
        ∧ (∀ ra, i = .call ra → t.pc = if ra = 15#4 then s.pc + 1#64 else s.reg ra)
        ∧ (i = .ret → t.pc = s.reg 15#4)
        ∧ (i.op ∉ [Op.jmp, .call, .ret] → t.pc = s.pc + 1#64))
    ∧ (∀ (s t : State) (w : Word) (r : DecodeReject), s.runState = .running → s.fetch = some w →
      decode s.cfg w = .error r → step s = .next t → t.pc = s.pc + 1#64)

/-- The flags keep their value through every step that ends in a trap or fetches no flag writer. That an
opcode without a result is none, even where the configured `CC_WRITERS` lists it, is the model's reading
(log entry 16). A GETC that waits leaves them too, writer or not: `GetcWaitsForInput`. -/
def Obligations.OnlyWritersChangeTheFlags : Prop :=
  ∀ s t : State, step s = .next t →
    (t.trapped = true ∨ ∀ i, Fetches s i → s.cfg.ccSource i.op = none) → t.cc = s.cc

/-- Only a store-like opcode changes memory. -/
def Obligations.OnlyStoresChangeMemory : Prop :=
  ∀ s t : State, step s = .next t →
    (∀ i, Fetches s i → i.op ∉ [Op.str, .push, .stsp, .stfp, .stap, .st, .sti]) → t.mem = s.mem

/-- The parameters never change, and `illegal_seen` is sticky. -/
def Obligations.ParametersStayAndDiagnosticSticks : Prop :=
  ∀ s t : State, step s = .next t →
    t.cfg = s.cfg ∧ (s.illegalSeen = true → t.illegalSeen = true)

/-- HEADLINE. Every step keeps the invariant: memory in canonical form and inside its bounds, and at
most one flag set. -/
def Obligations.EveryStepKeepsTheInvariant : Prop :=
  ∀ s t : State, s.Inv → step s = .next t → t.Inv

/-- The invariant holds right after reset, for all register contents and every memory that is
canonical and inside its bounds, and reset of a running machine keeps it. -/
def Obligations.ResetHasTheInvariant : Prop :=
  State.reset.Inv
    ∧ (∀ (c : Config) (regs : Vector Cell 16) (m : Memory), flagsOk c = true → Memory.wf m →
        (∀ x ∈ m, x.1 < c.memCells) → (State.resetFrom c regs m).Inv)
    ∧ ∀ s : State, s.Inv → s.rst.Inv

/-! ## Reset -/

/-- Reset sets the flags to `CC_RESET`, by default all clear, the counter to 0, the run state to
RUNNING and `illegal_seen` to 0, from any state. The model's choice (log entry 19): registers and
memory stay as they are (and the parameters, log entry 6); and (log entry 27) where `rst` and `cc_we` are both 1 the unit's flags take
`CC_RESET`. `State.reset` and `State.resetFrom` are resets of a powered-on machine. -/
def Obligations.ResetValues : Prop :=
  (∀ s : State, s.rst.cc = s.cfg.ccReset ∧ s.rst.pc = 0#64 ∧ s.rst.runState = .running
      ∧ s.rst.illegalSeen = false ∧ SameRegs s s.rst ∧ SameMem s s.rst ∧ s.rst.cfg = s.cfg)
    ∧ (∀ s : State, s.cfg.AtDefaults → s.rst.cc = ⟨false, false, false⟩)
    ∧ (∀ (c : Config) (cc : CC) (i : CcuInput), i.rst = true → i.ccWe = true →
      ccuNext c cc i = c.ccReset)
    ∧ (∀ (c : Config) (regs : Vector Cell 16) (m : Memory), c.AtDefaults →
      (State.resetFrom c regs m).cc = ⟨false, false, false⟩ ∧ (State.resetFrom c regs m).pc = 0#64
        ∧ (State.resetFrom c regs m).runState = .running
        ∧ (State.resetFrom c regs m).illegalSeen = false)
    ∧ State.reset.cc = ⟨false, false, false⟩ ∧ State.reset.pc = 0#64
    ∧ State.reset.runState = .running ∧ State.reset.illegalSeen = false
end

