-- ==== Sys2Proof/Laws/Fp.lean ====
section
/-! SUPPORT. The laws of the binary64 reading: the values of the zeros, of the infinities and of a
negated cell. -/

namespace Sys2Proof.Machine

/-- A zero reads as zero units with its sign. -/
@[simp] theorem fpValue_fpZero (s : Bool) : fpValue (fpZero s) = .fin s 0 := by
  cases s <;> decide +kernel

/-- An infinity reads as that infinity. -/
@[simp] theorem fpValue_fpInf (s : Bool) : fpValue (fpInf s) = .inf s := by
  cases s <;> decide +kernel

/-- The fields of a negated cell: the sign inverted, the others kept (R213). -/
theorem fields_fpNeg (a : Cell) :
    (fpNeg a).extractLsb' 52 11 = a.extractLsb' 52 11
      ∧ (fpNeg a).extractLsb' 0 52 = a.extractLsb' 0 52
      ∧ (fpNeg a).getLsbD 63 = !a.getLsbD 63 := by
  refine ⟨?_, ?_, by simp [fpNeg]⟩ <;>
    · rw [fpNeg, BitVec.extractLsb'_xor]
      exact BitVec.xor_zero

/-- NEG.F keeps a NaN a NaN (R213). -/
theorem fpValue_fpNeg_nan {a : Cell} (h : fpValue a = .nan) : fpValue (fpNeg a) = .nan := by
  obtain ⟨he, hf, hs⟩ := fields_fpNeg a
  unfold fpValue at *
  dsimp only at *
  rw [he, hf, hs]
  split at h
  · split at h
    · cases h
    · rename_i h1 h2; rw [if_pos h1, if_neg h2]
  · cases h

/-- NEG.F gives the other infinity (R213). -/
theorem fpValue_fpNeg_inf {a : Cell} {s : Bool} (h : fpValue a = .inf s) :
    fpValue (fpNeg a) = .inf !s := by
  obtain ⟨he, hf, hs⟩ := fields_fpNeg a
  unfold fpValue at *
  dsimp only at *
  rw [he, hf, hs]
  split at h
  · split at h
    · rename_i h1 h2; cases h; rw [if_pos h1, if_pos h2]
    · cases h
  · cases h

/-- NEG.F inverts the sign of a finite value (R213). -/
theorem fpValue_fpNeg_fin {a : Cell} {s : Bool} {k : Nat} (h : fpValue a = .fin s k) :
    fpValue (fpNeg a) = .fin (!s) k := by
  obtain ⟨he, hf, hs⟩ := fields_fpNeg a
  unfold fpValue at *
  dsimp only at *
  rw [he, hf, hs]
  split at h
  · split at h <;> cases h
  · rename_i h1; cases h; rw [if_neg h1]

/-- The magnitude with the opposite sign is the opposite number. -/
@[simp] theorem signed_not (s : Bool) (k : Nat) : signed (!s) k = -signed s k := by
  cases s <;> simp [signed]

end Sys2Proof.Machine
end

