-- ==== Sys2Proof/Laws/State.lean ====
section
/-! SUPPORT. One lemma per field of the state per update, true by definition, so that no later proof
unfolds a record update; and the register file's read after write. -/

namespace Sys2Proof.Machine

/-! ### setReg -/

@[simp] theorem State.setReg_cfg (s : State) (r : Reg) (v : Cell) : (s.setReg r v).cfg = s.cfg := rfl
@[simp] theorem State.setReg_regs (s : State) (r : Reg) (v : Cell) : (s.setReg r v).regs = s.regs.set r.toNat v r.isLt := rfl
@[simp] theorem State.setReg_pc (s : State) (r : Reg) (v : Cell) : (s.setReg r v).pc = s.pc := rfl
@[simp] theorem State.setReg_cc (s : State) (r : Reg) (v : Cell) : (s.setReg r v).cc = s.cc := rfl
@[simp] theorem State.setReg_mem (s : State) (r : Reg) (v : Cell) : (s.setReg r v).mem = s.mem := rfl
@[simp] theorem State.setReg_runState (s : State) (r : Reg) (v : Cell) : (s.setReg r v).runState = s.runState := rfl
@[simp] theorem State.setReg_illegalSeen (s : State) (r : Reg) (v : Cell) : (s.setReg r v).illegalSeen = s.illegalSeen := rfl
@[simp] theorem State.setReg_input (s : State) (r : Reg) (v : Cell) : (s.setReg r v).input = s.input := rfl
@[simp] theorem State.setReg_inputEnded (s : State) (r : Reg) (v : Cell) : (s.setReg r v).inputEnded = s.inputEnded := rfl
@[simp] theorem State.setReg_inputRead (s : State) (r : Reg) (v : Cell) : (s.setReg r v).inputRead = s.inputRead := rfl
@[simp] theorem State.setReg_output (s : State) (r : Reg) (v : Cell) : (s.setReg r v).output = s.output := rfl
@[simp] theorem State.setReg_draws (s : State) (r : Reg) (v : Cell) : (s.setReg r v).draws = s.draws := rfl

@[simp] theorem State.setReg_cell (s : State) (r : Reg) (v : Cell) (a : Nat) : (s.setReg r v).cell a = s.cell a := rfl
@[simp] theorem State.setReg_inMem (s : State) (r : Reg) (v : Cell) (x : Cell) : (s.setReg r v).inMem x = s.inMem x := rfl

/-! ### setCell -/

@[simp] theorem State.setCell_cfg (s : State) (a : Nat) (v : Cell) : (s.setCell a v).cfg = s.cfg := rfl
@[simp] theorem State.setCell_regs (s : State) (a : Nat) (v : Cell) : (s.setCell a v).regs = s.regs := rfl
@[simp] theorem State.setCell_pc (s : State) (a : Nat) (v : Cell) : (s.setCell a v).pc = s.pc := rfl
@[simp] theorem State.setCell_cc (s : State) (a : Nat) (v : Cell) : (s.setCell a v).cc = s.cc := rfl
@[simp] theorem State.setCell_mem (s : State) (a : Nat) (v : Cell) : (s.setCell a v).mem = Memory.write s.mem a v := rfl
@[simp] theorem State.setCell_runState (s : State) (a : Nat) (v : Cell) : (s.setCell a v).runState = s.runState := rfl
@[simp] theorem State.setCell_illegalSeen (s : State) (a : Nat) (v : Cell) : (s.setCell a v).illegalSeen = s.illegalSeen := rfl
@[simp] theorem State.setCell_input (s : State) (a : Nat) (v : Cell) : (s.setCell a v).input = s.input := rfl
@[simp] theorem State.setCell_inputEnded (s : State) (a : Nat) (v : Cell) : (s.setCell a v).inputEnded = s.inputEnded := rfl
@[simp] theorem State.setCell_inputRead (s : State) (a : Nat) (v : Cell) : (s.setCell a v).inputRead = s.inputRead := rfl
@[simp] theorem State.setCell_output (s : State) (a : Nat) (v : Cell) : (s.setCell a v).output = s.output := rfl
@[simp] theorem State.setCell_draws (s : State) (a : Nat) (v : Cell) : (s.setCell a v).draws = s.draws := rfl

@[simp] theorem State.setCell_reg (s : State) (a : Nat) (v : Cell) (q : Reg) : (s.setCell a v).reg q = s.reg q := rfl
@[simp] theorem State.setCell_inMem (s : State) (a : Nat) (v : Cell) (x : Cell) : (s.setCell a v).inMem x = s.inMem x := rfl

/-! ### takeTrap -/

@[simp] theorem State.takeTrap_cfg (s : State) (c : TrapCause) (i : Cell) : (s.takeTrap c i).cfg = s.cfg := rfl
@[simp] theorem State.takeTrap_regs (s : State) (c : TrapCause) (i : Cell) : (s.takeTrap c i).regs = s.regs := rfl
@[simp] theorem State.takeTrap_pc (s : State) (c : TrapCause) (i : Cell) : (s.takeTrap c i).pc = s.pc := rfl
@[simp] theorem State.takeTrap_cc (s : State) (c : TrapCause) (i : Cell) : (s.takeTrap c i).cc = s.cc := rfl
@[simp] theorem State.takeTrap_mem (s : State) (c : TrapCause) (i : Cell) : (s.takeTrap c i).mem = s.mem := rfl
@[simp] theorem State.takeTrap_runState (s : State) (c : TrapCause) (i : Cell) : (s.takeTrap c i).runState = .faulted c i := rfl
@[simp] theorem State.takeTrap_illegalSeen (s : State) (c : TrapCause) (i : Cell) : (s.takeTrap c i).illegalSeen = s.illegalSeen := rfl
@[simp] theorem State.takeTrap_input (s : State) (c : TrapCause) (i : Cell) : (s.takeTrap c i).input = s.input := rfl
@[simp] theorem State.takeTrap_inputEnded (s : State) (c : TrapCause) (i : Cell) : (s.takeTrap c i).inputEnded = s.inputEnded := rfl
@[simp] theorem State.takeTrap_inputRead (s : State) (c : TrapCause) (i : Cell) : (s.takeTrap c i).inputRead = s.inputRead := rfl
@[simp] theorem State.takeTrap_output (s : State) (c : TrapCause) (i : Cell) : (s.takeTrap c i).output = s.output := rfl
@[simp] theorem State.takeTrap_draws (s : State) (c : TrapCause) (i : Cell) : (s.takeTrap c i).draws = s.draws := rfl

@[simp] theorem State.takeTrap_reg (s : State) (c : TrapCause) (i : Cell) (q : Reg) : (s.takeTrap c i).reg q = s.reg q := rfl
@[simp] theorem State.takeTrap_cell (s : State) (c : TrapCause) (i : Cell) (a : Nat) : (s.takeTrap c i).cell a = s.cell a := rfl
@[simp] theorem State.takeTrap_inMem (s : State) (c : TrapCause) (i : Cell) (x : Cell) : (s.takeTrap c i).inMem x = s.inMem x := rfl

/-! ### drawn -/

@[simp] theorem State.drawn_cfg (s : State) : (s.drawn).cfg = s.cfg := rfl
@[simp] theorem State.drawn_regs (s : State) : (s.drawn).regs = s.regs := rfl
@[simp] theorem State.drawn_pc (s : State) : (s.drawn).pc = s.pc := rfl
@[simp] theorem State.drawn_cc (s : State) : (s.drawn).cc = s.cc := rfl
@[simp] theorem State.drawn_mem (s : State) : (s.drawn).mem = s.mem := rfl
@[simp] theorem State.drawn_runState (s : State) : (s.drawn).runState = s.runState := rfl
@[simp] theorem State.drawn_illegalSeen (s : State) : (s.drawn).illegalSeen = s.illegalSeen := rfl
@[simp] theorem State.drawn_input (s : State) : (s.drawn).input = s.input := rfl
@[simp] theorem State.drawn_inputEnded (s : State) : (s.drawn).inputEnded = s.inputEnded := rfl
@[simp] theorem State.drawn_inputRead (s : State) : (s.drawn).inputRead = s.inputRead := rfl
@[simp] theorem State.drawn_output (s : State) : (s.drawn).output = s.output := rfl
@[simp] theorem State.drawn_draws (s : State) : (s.drawn).draws = s.draws + 1 := rfl

@[simp] theorem State.drawn_reg (s : State) (q : Reg) : (s.drawn).reg q = s.reg q := rfl
@[simp] theorem State.drawn_cell (s : State) (a : Nat) : (s.drawn).cell a = s.cell a := rfl
@[simp] theorem State.drawn_inMem (s : State) (x : Cell) : (s.drawn).inMem x = s.inMem x := rfl

/-! ### advance -/

@[simp] theorem State.advance_cfg (s : State) : (s.advance).cfg = s.cfg := rfl
@[simp] theorem State.advance_regs (s : State) : (s.advance).regs = s.regs := rfl
@[simp] theorem State.advance_pc (s : State) : (s.advance).pc = s.pc + 1#64 := rfl
@[simp] theorem State.advance_cc (s : State) : (s.advance).cc = s.cc := rfl
@[simp] theorem State.advance_mem (s : State) : (s.advance).mem = s.mem := rfl
@[simp] theorem State.advance_runState (s : State) : (s.advance).runState = s.runState := rfl
@[simp] theorem State.advance_illegalSeen (s : State) : (s.advance).illegalSeen = s.illegalSeen := rfl
@[simp] theorem State.advance_input (s : State) : (s.advance).input = s.input := rfl
@[simp] theorem State.advance_inputEnded (s : State) : (s.advance).inputEnded = s.inputEnded := rfl
@[simp] theorem State.advance_inputRead (s : State) : (s.advance).inputRead = s.inputRead := rfl
@[simp] theorem State.advance_output (s : State) : (s.advance).output = s.output := rfl
@[simp] theorem State.advance_draws (s : State) : (s.advance).draws = s.draws := rfl

@[simp] theorem State.advance_reg (s : State) (q : Reg) : (s.advance).reg q = s.reg q := rfl
@[simp] theorem State.advance_cell (s : State) (a : Nat) : (s.advance).cell a = s.cell a := rfl
@[simp] theorem State.advance_inMem (s : State) (x : Cell) : (s.advance).inMem x = s.inMem x := rfl

/-! ### putByte -/

@[simp] theorem State.putByte_cfg (s : State) (b : Byte) : (s.putByte b).cfg = s.cfg := rfl
@[simp] theorem State.putByte_regs (s : State) (b : Byte) : (s.putByte b).regs = s.regs := rfl
@[simp] theorem State.putByte_pc (s : State) (b : Byte) : (s.putByte b).pc = s.pc := rfl
@[simp] theorem State.putByte_cc (s : State) (b : Byte) : (s.putByte b).cc = s.cc := rfl
@[simp] theorem State.putByte_mem (s : State) (b : Byte) : (s.putByte b).mem = s.mem := rfl
@[simp] theorem State.putByte_runState (s : State) (b : Byte) : (s.putByte b).runState = s.runState := rfl
@[simp] theorem State.putByte_illegalSeen (s : State) (b : Byte) : (s.putByte b).illegalSeen = s.illegalSeen := rfl
@[simp] theorem State.putByte_input (s : State) (b : Byte) : (s.putByte b).input = s.input := rfl
@[simp] theorem State.putByte_inputEnded (s : State) (b : Byte) : (s.putByte b).inputEnded = s.inputEnded := rfl
@[simp] theorem State.putByte_inputRead (s : State) (b : Byte) : (s.putByte b).inputRead = s.inputRead := rfl
@[simp] theorem State.putByte_output (s : State) (b : Byte) : (s.putByte b).output = s.output ++ [b] := rfl
@[simp] theorem State.putByte_draws (s : State) (b : Byte) : (s.putByte b).draws = s.draws := rfl

@[simp] theorem State.putByte_reg (s : State) (b : Byte) (q : Reg) : (s.putByte b).reg q = s.reg q := rfl
@[simp] theorem State.putByte_cell (s : State) (b : Byte) (a : Nat) : (s.putByte b).cell a = s.cell a := rfl
@[simp] theorem State.putByte_inMem (s : State) (b : Byte) (x : Cell) : (s.putByte b).inMem x = s.inMem x := rfl

/-! ### gotByte -/

@[simp] theorem State.gotByte_cfg (s : State) (b : Byte) (bs : List Byte) : (s.gotByte b bs).cfg = s.cfg := rfl
@[simp] theorem State.gotByte_regs (s : State) (b : Byte) (bs : List Byte) : (s.gotByte b bs).regs = s.regs := rfl
@[simp] theorem State.gotByte_pc (s : State) (b : Byte) (bs : List Byte) : (s.gotByte b bs).pc = s.pc := rfl
@[simp] theorem State.gotByte_cc (s : State) (b : Byte) (bs : List Byte) : (s.gotByte b bs).cc = s.cc := rfl
@[simp] theorem State.gotByte_mem (s : State) (b : Byte) (bs : List Byte) : (s.gotByte b bs).mem = s.mem := rfl
@[simp] theorem State.gotByte_runState (s : State) (b : Byte) (bs : List Byte) : (s.gotByte b bs).runState = s.runState := rfl
@[simp] theorem State.gotByte_illegalSeen (s : State) (b : Byte) (bs : List Byte) : (s.gotByte b bs).illegalSeen = s.illegalSeen := rfl
@[simp] theorem State.gotByte_input (s : State) (b : Byte) (bs : List Byte) : (s.gotByte b bs).input = bs := rfl
@[simp] theorem State.gotByte_inputEnded (s : State) (b : Byte) (bs : List Byte) : (s.gotByte b bs).inputEnded = s.inputEnded := rfl
@[simp] theorem State.gotByte_inputRead (s : State) (b : Byte) (bs : List Byte) : (s.gotByte b bs).inputRead = s.inputRead ++ [b] := rfl
@[simp] theorem State.gotByte_output (s : State) (b : Byte) (bs : List Byte) : (s.gotByte b bs).output = s.output := rfl
@[simp] theorem State.gotByte_draws (s : State) (b : Byte) (bs : List Byte) : (s.gotByte b bs).draws = s.draws := rfl

@[simp] theorem State.gotByte_reg (s : State) (b : Byte) (bs : List Byte) (q : Reg) : (s.gotByte b bs).reg q = s.reg q := rfl
@[simp] theorem State.gotByte_cell (s : State) (b : Byte) (bs : List Byte) (a : Nat) : (s.gotByte b bs).cell a = s.cell a := rfl
@[simp] theorem State.gotByte_inMem (s : State) (b : Byte) (bs : List Byte) (x : Cell) : (s.gotByte b bs).inMem x = s.inMem x := rfl

/-! ### waitInput -/

@[simp] theorem State.waitInput_cfg (s : State) : (s.waitInput).cfg = s.cfg := rfl
@[simp] theorem State.waitInput_regs (s : State) : (s.waitInput).regs = s.regs := rfl
@[simp] theorem State.waitInput_pc (s : State) : (s.waitInput).pc = s.pc - 1#64 := rfl
@[simp] theorem State.waitInput_cc (s : State) : (s.waitInput).cc = s.cc := rfl
@[simp] theorem State.waitInput_mem (s : State) : (s.waitInput).mem = s.mem := rfl
@[simp] theorem State.waitInput_runState (s : State) : (s.waitInput).runState = s.runState := rfl
@[simp] theorem State.waitInput_illegalSeen (s : State) : (s.waitInput).illegalSeen = s.illegalSeen := rfl
@[simp] theorem State.waitInput_input (s : State) : (s.waitInput).input = s.input := rfl
@[simp] theorem State.waitInput_inputEnded (s : State) : (s.waitInput).inputEnded = s.inputEnded := rfl
@[simp] theorem State.waitInput_inputRead (s : State) : (s.waitInput).inputRead = s.inputRead := rfl
@[simp] theorem State.waitInput_output (s : State) : (s.waitInput).output = s.output := rfl
@[simp] theorem State.waitInput_draws (s : State) : (s.waitInput).draws = s.draws := rfl

@[simp] theorem State.waitInput_reg (s : State) (q : Reg) : (s.waitInput).reg q = s.reg q := rfl
@[simp] theorem State.waitInput_cell (s : State) (a : Nat) : (s.waitInput).cell a = s.cell a := rfl
@[simp] theorem State.waitInput_inMem (s : State) (x : Cell) : (s.waitInput).inMem x = s.inMem x := rfl

/-! ### rst -/

@[simp] theorem State.rst_cfg (s : State) : (s.rst).cfg = s.cfg := rfl
@[simp] theorem State.rst_regs (s : State) : (s.rst).regs = s.regs := rfl
@[simp] theorem State.rst_pc (s : State) : (s.rst).pc = 0#64 := rfl
@[simp] theorem State.rst_cc (s : State) : (s.rst).cc = s.cfg.ccReset := rfl
@[simp] theorem State.rst_mem (s : State) : (s.rst).mem = s.mem := rfl
@[simp] theorem State.rst_runState (s : State) : (s.rst).runState = .running := rfl
@[simp] theorem State.rst_illegalSeen (s : State) : (s.rst).illegalSeen = false := rfl
@[simp] theorem State.rst_input (s : State) : (s.rst).input = s.input := rfl
@[simp] theorem State.rst_inputEnded (s : State) : (s.rst).inputEnded = s.inputEnded := rfl
@[simp] theorem State.rst_inputRead (s : State) : (s.rst).inputRead = s.inputRead := rfl
@[simp] theorem State.rst_output (s : State) : (s.rst).output = s.output := rfl
@[simp] theorem State.rst_draws (s : State) : (s.rst).draws = s.draws := rfl

@[simp] theorem State.rst_reg (s : State) (q : Reg) : (s.rst).reg q = s.reg q := rfl
@[simp] theorem State.rst_cell (s : State) (a : Nat) : (s.rst).cell a = s.cell a := rfl
@[simp] theorem State.rst_inMem (s : State) (x : Cell) : (s.rst).inMem x = s.inMem x := rfl

/-! ### supplyInput -/

@[simp] theorem State.supplyInput_cfg (s : State) (bs : List Byte) : (s.supplyInput bs).cfg = s.cfg := rfl
@[simp] theorem State.supplyInput_regs (s : State) (bs : List Byte) : (s.supplyInput bs).regs = s.regs := rfl
@[simp] theorem State.supplyInput_pc (s : State) (bs : List Byte) : (s.supplyInput bs).pc = s.pc := rfl
@[simp] theorem State.supplyInput_cc (s : State) (bs : List Byte) : (s.supplyInput bs).cc = s.cc := rfl
@[simp] theorem State.supplyInput_mem (s : State) (bs : List Byte) : (s.supplyInput bs).mem = s.mem := rfl
@[simp] theorem State.supplyInput_runState (s : State) (bs : List Byte) : (s.supplyInput bs).runState = s.runState := rfl
@[simp] theorem State.supplyInput_illegalSeen (s : State) (bs : List Byte) : (s.supplyInput bs).illegalSeen = s.illegalSeen := rfl
@[simp] theorem State.supplyInput_input (s : State) (bs : List Byte) : (s.supplyInput bs).input = s.input ++ bs := rfl
@[simp] theorem State.supplyInput_inputEnded (s : State) (bs : List Byte) : (s.supplyInput bs).inputEnded = s.inputEnded := rfl
@[simp] theorem State.supplyInput_inputRead (s : State) (bs : List Byte) : (s.supplyInput bs).inputRead = s.inputRead := rfl
@[simp] theorem State.supplyInput_output (s : State) (bs : List Byte) : (s.supplyInput bs).output = s.output := rfl
@[simp] theorem State.supplyInput_draws (s : State) (bs : List Byte) : (s.supplyInput bs).draws = s.draws := rfl

@[simp] theorem State.supplyInput_reg (s : State) (bs : List Byte) (q : Reg) : (s.supplyInput bs).reg q = s.reg q := rfl
@[simp] theorem State.supplyInput_cell (s : State) (bs : List Byte) (a : Nat) : (s.supplyInput bs).cell a = s.cell a := rfl
@[simp] theorem State.supplyInput_inMem (s : State) (bs : List Byte) (x : Cell) : (s.supplyInput bs).inMem x = s.inMem x := rfl

/-! ### endInput -/

@[simp] theorem State.endInput_cfg (s : State) : (s.endInput).cfg = s.cfg := rfl
@[simp] theorem State.endInput_regs (s : State) : (s.endInput).regs = s.regs := rfl
@[simp] theorem State.endInput_pc (s : State) : (s.endInput).pc = s.pc := rfl
@[simp] theorem State.endInput_cc (s : State) : (s.endInput).cc = s.cc := rfl
@[simp] theorem State.endInput_mem (s : State) : (s.endInput).mem = s.mem := rfl
@[simp] theorem State.endInput_runState (s : State) : (s.endInput).runState = s.runState := rfl
@[simp] theorem State.endInput_illegalSeen (s : State) : (s.endInput).illegalSeen = s.illegalSeen := rfl
@[simp] theorem State.endInput_input (s : State) : (s.endInput).input = s.input := rfl
@[simp] theorem State.endInput_inputEnded (s : State) : (s.endInput).inputEnded = true := rfl
@[simp] theorem State.endInput_inputRead (s : State) : (s.endInput).inputRead = s.inputRead := rfl
@[simp] theorem State.endInput_output (s : State) : (s.endInput).output = s.output := rfl
@[simp] theorem State.endInput_draws (s : State) : (s.endInput).draws = s.draws := rfl

@[simp] theorem State.endInput_reg (s : State) (q : Reg) : (s.endInput).reg q = s.reg q := rfl
@[simp] theorem State.endInput_cell (s : State) (a : Nat) : (s.endInput).cell a = s.cell a := rfl
@[simp] theorem State.endInput_inMem (s : State) (x : Cell) : (s.endInput).inMem x = s.inMem x := rfl

/-! ### Registers -/

/-- Reading the register just written gives the value written. -/
@[simp] theorem State.reg_setReg_same (s : State) (r : Reg) (v : Cell) : (s.setReg r v).reg r = v := by
  simp [State.reg]

/-- Writing a register leaves every other register as it was. -/
theorem State.reg_setReg_ne (s : State) {r q : Reg} (v : Cell) (h : q ≠ r) :
    (s.setReg r v).reg q = s.reg q := by
  have hn : r.toNat ≠ q.toNat := fun e => h (BitVec.eq_of_toNat_eq e.symm)
  simp [State.reg, hn]

/-- Reading a register after one is written, in one equation. -/
theorem State.reg_setReg (s : State) (r q : Reg) (v : Cell) :
    (s.setReg r v).reg q = if q = r then v else s.reg q := by
  by_cases h : q = r
  · subst h; simp
  · simp [h, State.reg_setReg_ne s v h]

end Sys2Proof.Machine
end

