-- ==== Sys2Proof/Laws/Memory.lean ====
section
/-! SUPPORT. The laws of memory: read after write, and the canonical form that every write keeps. -/

namespace Sys2Proof.Machine

/-- Looking up the cell just written finds the value written. -/
@[simp] theorem Memory.lookup_write_same (m : Memory) (a : Nat) (v : Cell) :
    Memory.lookup (Memory.write m a v) a = some v := by
  induction m with
  | nil => simp [Memory.write, Memory.lookup]
  | cons x m ih =>
    obtain ⟨b, w⟩ := x
    by_cases h1 : a < b
    · simp [Memory.write, Memory.lookup, h1]
    · by_cases h2 : a = b
      · simp [Memory.write, Memory.lookup, h2]
      · simp [Memory.write, Memory.lookup, h1, h2, Ne.symm h2, ih]

/-- Writing a cell leaves the lookup of every other cell as it was. -/
theorem Memory.lookup_write_ne (m : Memory) {a b : Nat} (v : Cell) (h : b ≠ a) :
    Memory.lookup (Memory.write m a v) b = Memory.lookup m b := by
  induction m with
  | nil => simp [Memory.write, Memory.lookup, Ne.symm h]
  | cons x m ih =>
    obtain ⟨c, w⟩ := x
    by_cases h1 : a < c
    · simp [Memory.write, Memory.lookup, h1, Ne.symm h]
    · by_cases h2 : a = c
      · subst h2; simp [Memory.write, Memory.lookup, Ne.symm h]
      · simp [Memory.write, Memory.lookup, h1, h2, ih]

/-- Reading the cell just written gives the value written (R54). -/
@[simp] theorem Memory.read_write_same (m : Memory) (a : Nat) (v : Cell) :
    Memory.read (Memory.write m a v) a = v := by
  simp [Memory.read]

/-- Writing a cell leaves what every other cell reads as (R54). -/
theorem Memory.read_write_ne (m : Memory) {a b : Nat} (v : Cell) (h : b ≠ a) :
    Memory.read (Memory.write m a v) b = Memory.read m b := by
  simp [Memory.read, Memory.lookup_write_ne m v h]

/-- A listed index after a write was listed before or is the one written. -/
theorem Memory.mem_write (m : Memory) (a : Nat) (v : Cell) (x : Nat × Cell)
    (h : x ∈ Memory.write m a v) : x = (a, v) ∨ x ∈ m := by
  induction m with
  | nil => simpa [Memory.write] using h
  | cons y m ih =>
    obtain ⟨b, w⟩ := y
    by_cases h1 : a < b
    · simpa [Memory.write, h1] using h
    · by_cases h2 : a = b
      · simp [Memory.write, h2] at h
        rcases h with h | h
        · exact .inl (h2 ▸ h)
        · exact .inr (List.mem_cons_of_mem _ h)
      · simp [Memory.write, h1, h2] at h
        rcases h with h | h
        · exact .inr (h ▸ List.mem_cons_self)
        · exact (ih h).imp id (List.mem_cons_of_mem _)

/-- Every write keeps the canonical form. -/
theorem Memory.write_wf (m : Memory) (a : Nat) (v : Cell) (h : Memory.wf m) :
    Memory.wf (Memory.write m a v) := by
  induction m with
  | nil => simp [Memory.write]
  | cons x m ih =>
    obtain ⟨b, w⟩ := x
    obtain ⟨hb, hm⟩ := List.pairwise_cons.mp h
    by_cases h1 : a < b
    · simp only [Memory.write, h1, if_true]
      refine List.pairwise_cons.mpr ⟨fun y hy => ?_, h⟩
      rcases List.mem_cons.mp hy with rfl | hy
      · exact h1
      · exact Nat.lt_trans h1 (hb y hy)
    · by_cases h2 : a = b
      · subst h2
        simp only [Memory.write, Nat.lt_irrefl, if_false, if_true]
        exact List.pairwise_cons.mpr ⟨hb, hm⟩
      · simp only [Memory.write, h1, h2, if_false]
        refine List.pairwise_cons.mpr ⟨fun y hy => ?_, ih hm⟩
        rcases Memory.mem_write m a v y hy with rfl | hy
        · show b < a
          omega
        · exact hb y hy

/-- Reading the cell of the state just written gives the value written. -/
@[simp] theorem State.cell_setCell_same (s : State) (a : Nat) (v : Cell) :
    (s.setCell a v).cell a = v := by
  simp [State.cell]

/-- Writing a cell of the state leaves every other cell as it was. -/
theorem State.cell_setCell_ne (s : State) {a b : Nat} (v : Cell) (h : b ≠ a) :
    (s.setCell a v).cell b = s.cell b := by
  simp [State.cell, Memory.read_write_ne s.mem v h]

/-- The memory right after reset is in canonical form. -/
theorem reset_mem_wf : Memory.wf State.reset.mem := List.Pairwise.nil

end Sys2Proof.Machine
end

