-- ==== Sys2Proof/Laws/Ops.lean ====
section
/-! SUPPORT. For each shared operation, what it does, said once: the operations that write a register
and perhaps the flags, the guarded memory accesses, and the ways a result can end. -/

namespace Sys2Proof.Machine

/-- A load either is out of range and traps, or goes on with the cell (R55). -/
theorem State.withLoad_cases (s : State) (a : Cell) (k : Cell → State) :
    (s.inMem a = true ∧ s.withLoad a k = k (s.cell a.toNat)) ∨
      (s.inMem a = false ∧ s.withLoad a k = s.takeTrap .memOutOfRange a) := by
  unfold State.withLoad
  cases h : s.inMem a
  · exact .inr ⟨rfl, by simp⟩
  · exact .inl ⟨rfl, by simp⟩

/-- A store either is out of range and traps, or writes the one cell (R55). -/
theorem State.store_cases (s : State) (a v : Cell) :
    (s.inMem a = true ∧ s.store a v = s.setCell a.toNat v) ∨
      (s.inMem a = false ∧ s.store a v = s.takeTrap .memOutOfRange a) := by
  unfold State.store
  cases h : s.inMem a
  · exact .inr ⟨rfl, by simp⟩
  · exact .inl ⟨rfl, by simp⟩

/-- The flags after an opcode completes are the old ones, those of its result or those of an ordering,
as the source that `CC_WRITERS` has for it (R107). -/
theorem State.newCC_cases (s : State) (op : Op) (r : Cell) (o : CmpOrder) :
    (s.cfg.ccSource op = none ∧ s.newCC op r o = s.cc) ∨
      (s.cfg.ccSource op = some .int ∧ s.newCC op r o = ccOfInt r) ∨
      (s.cfg.ccSource op = some .ord ∧ s.newCC op r o = ccOfOrd s.cfg o) := by
  unfold State.newCC
  cases h : s.cfg.ccSource op with
  | none => exact .inl ⟨rfl, rfl⟩
  | some k =>
    cases k
    · exact .inr (.inl ⟨rfl, rfl⟩)
    · exact .inr (.inr ⟨rfl, rfl⟩)

/-- An opcode outside `CC_WRITERS` leaves the flags (R107). -/
theorem State.newCC_none {s : State} {op : Op} (r : Cell) (o : CmpOrder)
    (h : s.cfg.ccSource op = none) : s.newCC op r o = s.cc := by
  simp [State.newCC, h]

/-- An opcode with the source `int` takes the flags from its result (R107). -/
theorem State.newCC_int {s : State} {op : Op} (r : Cell) (o : CmpOrder)
    (h : s.cfg.ccSource op = some .int) : s.newCC op r o = ccOfInt r := by
  simp [State.newCC, h]

/-- An opcode with the source `ord` takes the flags from the ordering (R107). -/
theorem State.newCC_ord {s : State} {op : Op} (r : Cell) (o : CmpOrder)
    (h : s.cfg.ccSource op = some .ord) : s.newCC op r o = ccOfOrd s.cfg o := by
  simp [State.newCC, h]

/-- Under the default `CC_WRITERS` a compare takes the flags from its ordering, the integer, bitwise
and shift opcodes from their result, and no other opcode writes them (R107). -/
theorem ccSource_default {c : Config} (h : c.ccWriters = Config.defaultCcWriters) (op : Op) :
    c.ccSource op =
      if op ∈ [Op.cmpI, .cmpF] then some .ord
      else if op ∈ [Op.addI, .subI, .mulI, .divI, .negI, .and, .or, .xor, .not, .bnot, .shl, .shr]
        then some .int
      else none := by
  unfold Config.ccSource
  rw [h]
  cases op <;> rfl

/-- The write of a result changes its register and perhaps the flags (R201, R221). -/
theorem State.writeResult_eq (s : State) (op : Op) (rd : Reg) (r : Cell) :
    s.writeResult op rd r =
      { s.setReg rd r with cc := s.newCC op r (orderOfPort (Config.resultOrder op r)) } := rfl

/-- The write of a result by an opcode whose flags come from it (R201, R221). -/
theorem State.writeResult_int {s : State} {op : Op} (rd : Reg) (r : Cell)
    (h : s.cfg.ccSource op = some .int) :
    s.writeResult op rd r = { s.setReg rd r with cc := ccOfInt r } := by
  rw [State.writeResult_eq, State.newCC_int _ _ h]

/-- The write of a result by an opcode that does not write the flags changes its register alone. -/
theorem State.writeResult_none {s : State} {op : Op} (rd : Reg) (r : Cell)
    (h : s.cfg.ccSource op = none) : s.writeResult op rd r = s.setReg rd r := by
  rw [State.writeResult_eq, State.newCC_none _ _ h]
  rfl

/-- The destination of a result holds it (R201, R221). -/
@[simp] theorem State.reg_writeResult_same (s : State) (op : Op) (rd : Reg) (r : Cell) :
    (s.writeResult op rd r).reg rd = r :=
  State.reg_setReg_same s rd r

/-- The write of a result leaves every other register. -/
theorem State.reg_writeResult_ne (s : State) (op : Op) {rd q : Reg} (r : Cell) (h : q ≠ rd) :
    (s.writeResult op rd r).reg q = s.reg q :=
  State.reg_setReg_ne s r h

/-- The flags after the write of a result (R107). -/
@[simp] theorem State.writeResult_cc (s : State) (op : Op) (rd : Reg) (r : Cell) :
    (s.writeResult op rd r).cc = s.newCC op r (orderOfPort (Config.resultOrder op r)) := rfl

/-! The rest of the state after the write of a result is as it was (R201, R221). -/

@[simp] theorem State.writeResult_cfg (s : State) (op : Op) (rd : Reg) (r : Cell) :
    (s.writeResult op rd r).cfg = s.cfg := rfl
@[simp] theorem State.writeResult_pc (s : State) (op : Op) (rd : Reg) (r : Cell) :
    (s.writeResult op rd r).pc = s.pc := rfl
@[simp] theorem State.writeResult_mem (s : State) (op : Op) (rd : Reg) (r : Cell) :
    (s.writeResult op rd r).mem = s.mem := rfl
@[simp] theorem State.writeResult_runState (s : State) (op : Op) (rd : Reg) (r : Cell) :
    (s.writeResult op rd r).runState = s.runState := rfl
@[simp] theorem State.writeResult_illegalSeen (s : State) (op : Op) (rd : Reg) (r : Cell) :
    (s.writeResult op rd r).illegalSeen = s.illegalSeen := rfl
@[simp] theorem State.writeResult_input (s : State) (op : Op) (rd : Reg) (r : Cell) :
    (s.writeResult op rd r).input = s.input := rfl
@[simp] theorem State.writeResult_inputEnded (s : State) (op : Op) (rd : Reg) (r : Cell) :
    (s.writeResult op rd r).inputEnded = s.inputEnded := rfl
@[simp] theorem State.writeResult_inputRead (s : State) (op : Op) (rd : Reg) (r : Cell) :
    (s.writeResult op rd r).inputRead = s.inputRead := rfl
@[simp] theorem State.writeResult_output (s : State) (op : Op) (rd : Reg) (r : Cell) :
    (s.writeResult op rd r).output = s.output := rfl
@[simp] theorem State.writeResult_draws (s : State) (op : Op) (rd : Reg) (r : Cell) :
    (s.writeResult op rd r).draws = s.draws := rfl

/-- The end of an integer instruction is the trap `IntegerOverflow` or the result modulo 2^64 (R200). -/
theorem State.writeInt_cases (s : State) (op : Op) (rd : Reg) (v : Int) :
    (s.cfg.intOverflow = .trap ∧ fits64 v = false ∧
        s.writeInt op rd v = s.takeTrap .integerOverflow s.instrAddr) ∨
      ((s.cfg.intOverflow = .wrap ∨ fits64 v = true) ∧
        s.writeInt op rd v = s.writeResult op rd (BitVec.ofInt 64 v)) := by
  unfold State.writeInt
  cases h : s.cfg.intOverflow <;> cases hf : fits64 v <;> simp

/-- Under `INT_OVERFLOW = wrap` an integer instruction always writes its result (R200). -/
theorem State.writeInt_wrap (s : State) (op : Op) (rd : Reg) (v : Int)
    (h : s.cfg.intOverflow = .wrap) :
    s.writeInt op rd v = s.writeResult op rd (BitVec.ofInt 64 v) := by
  simp [State.writeInt, h]

/-- The end of a compare: its register and perhaps the flags (R155, R240). -/
theorem State.writeCompare_eq (s : State) (op : Op) (req : CC) (rd : Reg) (o : CmpOrder) :
    s.writeCompare op req rd o =
      { s.setReg rd (s.compareCell req o) with cc := s.newCC op (s.compareCell req o) o } := rfl

/-- The destination of a compare holds 1 or 0 (R155). -/
@[simp] theorem State.reg_writeCompare_same (s : State) (op : Op) (req : CC) (rd : Reg) (o : CmpOrder) :
    (s.writeCompare op req rd o).reg rd = s.compareCell req o :=
  State.reg_setReg_same s rd _

/-- The flags after a compare (R107, R155). -/
@[simp] theorem State.writeCompare_cc (s : State) (op : Op) (req : CC) (rd : Reg) (o : CmpOrder) :
    (s.writeCompare op req rd o).cc = s.newCC op (s.compareCell req o) o := rfl

/-! The rest of the state after a compare is as it was (R155). -/

@[simp] theorem State.writeCompare_cfg (s : State) (op : Op) (req : CC) (rd : Reg) (o : CmpOrder) :
    (s.writeCompare op req rd o).cfg = s.cfg := rfl
@[simp] theorem State.writeCompare_pc (s : State) (op : Op) (req : CC) (rd : Reg) (o : CmpOrder) :
    (s.writeCompare op req rd o).pc = s.pc := rfl
@[simp] theorem State.writeCompare_mem (s : State) (op : Op) (req : CC) (rd : Reg) (o : CmpOrder) :
    (s.writeCompare op req rd o).mem = s.mem := rfl
@[simp] theorem State.writeCompare_runState (s : State) (op : Op) (req : CC) (rd : Reg) (o : CmpOrder) :
    (s.writeCompare op req rd o).runState = s.runState := rfl
@[simp] theorem State.writeCompare_illegalSeen (s : State) (op : Op) (req : CC) (rd : Reg) (o : CmpOrder) :
    (s.writeCompare op req rd o).illegalSeen = s.illegalSeen := rfl
@[simp] theorem State.writeCompare_input (s : State) (op : Op) (req : CC) (rd : Reg) (o : CmpOrder) :
    (s.writeCompare op req rd o).input = s.input := rfl
@[simp] theorem State.writeCompare_inputEnded (s : State) (op : Op) (req : CC) (rd : Reg) (o : CmpOrder) :
    (s.writeCompare op req rd o).inputEnded = s.inputEnded := rfl
@[simp] theorem State.writeCompare_inputRead (s : State) (op : Op) (req : CC) (rd : Reg) (o : CmpOrder) :
    (s.writeCompare op req rd o).inputRead = s.inputRead := rfl
@[simp] theorem State.writeCompare_output (s : State) (op : Op) (req : CC) (rd : Reg) (o : CmpOrder) :
    (s.writeCompare op req rd o).output = s.output := rfl
@[simp] theorem State.writeCompare_draws (s : State) (op : Op) (req : CC) (rd : Reg) (o : CmpOrder) :
    (s.writeCompare op req rd o).draws = s.draws := rfl

/-- The end of a compare whose flags are the raw comparison (R155, R240). -/
theorem State.writeCompare_ord {s : State} {op : Op} (req : CC) (rd : Reg) (o : CmpOrder)
    (h : s.cfg.ccSource op = some .ord) :
    s.writeCompare op req rd o =
      { s.setReg rd (s.compareCell req o) with cc := ccOfOrd s.cfg o } := by
  rw [State.writeCompare_eq, State.newCC_ord _ _ h]

/-- DIV.I ends in one of its two traps or in its quotient (R207). -/
theorem State.divide_cases (s : State) (rd : Reg) (a b : Cell) :
    (b = 0#64 ∧ s.divide rd a b = s.takeTrap .divideByZero s.instrAddr) ∨
      (b ≠ 0#64 ∧ a = 0x8000000000000000#64 ∧ b = 0xFFFFFFFFFFFFFFFF#64 ∧
        s.divide rd a b = s.takeTrap .divideOverflow s.instrAddr) ∨
      (b ≠ 0#64 ∧ ¬(a = 0x8000000000000000#64 ∧ b = 0xFFFFFFFFFFFFFFFF#64) ∧
        s.divide rd a b = s.writeResult .divI rd (BitVec.ofInt 64 (a.toInt.tdiv b.toInt))) := by
  unfold State.divide
  by_cases hb : b = 0#64
  · exact .inl ⟨hb, by simp [hb]⟩
  · by_cases ho : a = 0x8000000000000000#64 ∧ b = 0xFFFFFFFFFFFFFFFF#64
    · exact .inr (.inl ⟨hb, ho.1, ho.2, by rw [if_neg hb, if_pos ho]⟩)
    · exact .inr (.inr ⟨hb, ho, by rw [if_neg hb, if_neg ho]⟩)

/-- PUSH is out of range and traps, or moves R14 and writes the one cell (R263). -/
theorem State.pushed_cases (s : State) (rs : Reg) :
    (s.inMem s.pushAddr = true ∧
        s.pushed rs = (s.setReg Reg.sp s.pushAddr).setCell s.pushAddr.toNat
          (if rs = Reg.sp then s.pushAddr else s.reg rs)) ∨
      (s.inMem s.pushAddr = false ∧ s.pushed rs = s.takeTrap .memOutOfRange s.pushAddr) := by
  unfold State.pushed State.store
  cases h : s.inMem s.pushAddr
  · exact .inr ⟨rfl, by simp⟩
  · exact .inl ⟨rfl, by simp [h, State.reg_setReg]⟩

/-- POP writes its destination, then R14, and perhaps the flags from the loaded cell (R264, R107). -/
theorem State.popWith_eq (s : State) (rd : Reg) (v : Cell) :
    s.popWith rd v =
      { (s.setReg rd v).setReg Reg.sp ((s.setReg rd v).reg Reg.sp - 1#64) with
        cc := s.newCC .pop v (orderOfPort (Config.resultOrder .pop v)) } := rfl

/-- The address of LDAP and STAP: `AP_REG` names no register and traps, or the rule goes on (R265). -/
theorem State.withApAddr_cases (s : State) (b : Operand) (k : Cell → State) :
    (s.cfg.apReg < 16 ∧ s.withApAddr b k = k (s.pointerAddr (apRegister s.cfg) b)) ∨
      (¬ s.cfg.apReg < 16 ∧ s.withApAddr b k =
        s.takeTrap .registerOutOfRange (BitVec.ofNat 64 s.cfg.apReg)) := by
  unfold State.withApAddr
  by_cases h : s.cfg.apReg < 16
  · exact .inl ⟨h, by rw [if_pos h]⟩
  · exact .inr ⟨h, by rw [if_neg h]⟩

/-- The end of a floating-point instruction: one register, perhaps the flags, perhaps a draw (R202). -/
theorem State.writeFp_cases (s : State) (op : Op) (rd : Reg) (r : Option Cell) :
    (∃ v, r = some v ∧ s.writeFp op rd r = s.writeResult op rd v) ∨
      (r = none ∧ s.writeFp op rd r =
        s.drawn.writeResult op rd (nanOf (s.openCell s.cfg.fp.nanResult))) := by
  cases r with
  | none => exact .inr ⟨rfl, rfl⟩
  | some v => exact .inl ⟨v, rfl, rfl⟩

/-- The end of FTOI: the truncated value, or a free value (R244). -/
theorem State.writeFtoi_cases (s : State) (rd : Reg) (r : Option Cell) :
    (∃ v, r = some v ∧ s.writeFtoi rd r = s.writeResult .ftoi rd v) ∨
      (r = none ∧ s.writeFtoi rd r =
        s.drawn.writeResult .ftoi rd (s.openCell s.cfg.fp.ftoiSpecial)) := by
  cases r with
  | none => exact .inr ⟨rfl, rfl⟩
  | some v => exact .inl ⟨v, rfl, rfl⟩

/-- The flags of an integer result have exactly one flag set (R151). -/
theorem ccOfInt_atMostOne (r : Cell) : (ccOfInt r).atMostOne = true := by
  by_cases h : r = 0#64
  · subst h; decide
  · cases hn : r.getLsbD 63 <;> simp [ccOfInt, CC.atMostOne, hn, h]

end Sys2Proof.Machine
end

