-- ==== Sys2Proof/Laws/PerInstr.lean ====
section
/-! SUPPORT. The per-instruction family OpcodeField: in the canonical word of an instruction the bits
62:57 hold its opcode number (R81, R102). -/

namespace Sys2Proof.Laws

/-- The opcode field of a word that `Encode` produces (R81, R135). -/
theorem op_encodeFields (f : Fields) : (decodeFields (encodeFields f)).op = f.op := by
  apply BitVec.eq_of_getLsbD_eq
  intro i hi
  have h1 : ¬ (57 + i < 57) := by omega
  have h2 : 64 > 57 + i := by omega
  have e1 : 4 ≤ 57 + i - 53 := by omega
  have e2 : 1 ≤ 57 + i - 52 := by omega
  have e3 : 1 ≤ 57 + i - 39 := by omega
  have e4 : 1 ≤ 57 + i - 38 := by omega
  have e5 : 1 ≤ 57 + i - 37 := by omega
  have e6 : 32 ≤ 57 + i - 4 := by omega
  have e7 : 4 ≤ 57 + i - 4 := by omega
  have e8 : 4 ≤ 57 + i := by omega
  simp [decodeFields, bits, encodeFields, bitOf, hi, h2, BitVec.getLsbD_of_ge, e1, e2, e3, e4, e5,
    e6, e7, e8]

/-- The bits 62:57 of the canonical word hold the number of the instruction's opcode. -/
def OpcodeField.Statement (i : Instr) : Prop :=
  ∀ c : Config, (decodeFields (encode c i)).op = c.codeOf i.op

theorem OpcodeField.addI (rd ra : Reg) (b : Operand) : OpcodeField.Statement (.addI rd ra b) := by
  intro c; cases b <;> exact op_encodeFields _
theorem OpcodeField.subI (rd ra : Reg) (b : Operand) : OpcodeField.Statement (.subI rd ra b) := by
  intro c; cases b <;> exact op_encodeFields _
theorem OpcodeField.mulI (rd ra : Reg) (b : Operand) : OpcodeField.Statement (.mulI rd ra b) := by
  intro c; cases b <;> exact op_encodeFields _
theorem OpcodeField.divI (rd ra : Reg) (b : Operand) : OpcodeField.Statement (.divI rd ra b) := by
  intro c; cases b <;> exact op_encodeFields _
theorem OpcodeField.addF (rd ra : Reg) (b : Operand) : OpcodeField.Statement (.addF rd ra b) := by
  intro c; cases b <;> exact op_encodeFields _
theorem OpcodeField.subF (rd ra : Reg) (b : Operand) : OpcodeField.Statement (.subF rd ra b) := by
  intro c; cases b <;> exact op_encodeFields _
theorem OpcodeField.mulF (rd ra : Reg) (b : Operand) : OpcodeField.Statement (.mulF rd ra b) := by
  intro c; cases b <;> exact op_encodeFields _
theorem OpcodeField.divF (rd ra : Reg) (b : Operand) : OpcodeField.Statement (.divF rd ra b) := by
  intro c; cases b <;> exact op_encodeFields _
theorem OpcodeField.negI (rd ra : Reg) : OpcodeField.Statement (.negI rd ra) := fun _ => op_encodeFields _
theorem OpcodeField.negF (rd ra : Reg) : OpcodeField.Statement (.negF rd ra) := fun _ => op_encodeFields _
theorem OpcodeField.and (rd ra : Reg) (b : Operand) : OpcodeField.Statement (.and rd ra b) := by
  intro c; cases b <;> exact op_encodeFields _
theorem OpcodeField.or (rd ra : Reg) (b : Operand) : OpcodeField.Statement (.or rd ra b) := by
  intro c; cases b <;> exact op_encodeFields _
theorem OpcodeField.xor (rd ra : Reg) (b : Operand) : OpcodeField.Statement (.xor rd ra b) := by
  intro c; cases b <;> exact op_encodeFields _
theorem OpcodeField.not (rd ra : Reg) : OpcodeField.Statement (.not rd ra) := fun _ => op_encodeFields _
theorem OpcodeField.bnot (rd ra : Reg) : OpcodeField.Statement (.bnot rd ra) := fun _ => op_encodeFields _
theorem OpcodeField.shl (rd ra : Reg) (b : Operand) : OpcodeField.Statement (.shl rd ra b) := by
  intro c; cases b <;> exact op_encodeFields _
theorem OpcodeField.shr (rd ra : Reg) (b : Operand) : OpcodeField.Statement (.shr rd ra b) := by
  intro c; cases b <;> exact op_encodeFields _
theorem OpcodeField.cmpI (req : CC) (rd ra : Reg) (b : Operand) : OpcodeField.Statement (.cmpI req rd ra b) := by
  intro c; cases b <;> exact op_encodeFields _
theorem OpcodeField.cmpF (req : CC) (rd ra : Reg) (b : Operand) : OpcodeField.Statement (.cmpF req rd ra b) := by
  intro c; cases b <;> exact op_encodeFields _
theorem OpcodeField.itof (rd ra : Reg) : OpcodeField.Statement (.itof rd ra) := fun _ => op_encodeFields _
theorem OpcodeField.ftoi (rd ra : Reg) : OpcodeField.Statement (.ftoi rd ra) := fun _ => op_encodeFields _
theorem OpcodeField.ldr (rd ra : Reg) (b : Operand) : OpcodeField.Statement (.ldr rd ra b) := by
  intro c; cases b <;> exact op_encodeFields _
theorem OpcodeField.str (rs ra : Reg) (b : Operand) : OpcodeField.Statement (.str rs ra b) := by
  intro c; cases b <;> exact op_encodeFields _
theorem OpcodeField.push (rs : Reg) : OpcodeField.Statement (.push rs) := fun _ => op_encodeFields _
theorem OpcodeField.pop (rd : Reg) : OpcodeField.Statement (.pop rd) := fun _ => op_encodeFields _
theorem OpcodeField.ldsp (rd : Reg) (b : Operand) : OpcodeField.Statement (.ldsp rd b) := by
  intro c; cases b <;> exact op_encodeFields _
theorem OpcodeField.stsp (rs : Reg) (b : Operand) : OpcodeField.Statement (.stsp rs b) := by
  intro c; cases b <;> exact op_encodeFields _
theorem OpcodeField.ldfp (rd : Reg) (b : Operand) : OpcodeField.Statement (.ldfp rd b) := by
  intro c; cases b <;> exact op_encodeFields _
theorem OpcodeField.stfp (rs : Reg) (b : Operand) : OpcodeField.Statement (.stfp rs b) := by
  intro c; cases b <;> exact op_encodeFields _
theorem OpcodeField.ldap (rd : Reg) (b : Operand) : OpcodeField.Statement (.ldap rd b) := by
  intro c; cases b <;> exact op_encodeFields _
theorem OpcodeField.stap (rs : Reg) (b : Operand) : OpcodeField.Statement (.stap rs b) := by
  intro c; cases b <;> exact op_encodeFields _
theorem OpcodeField.jmp (req : CC) (b : Operand) : OpcodeField.Statement (.jmp req b) := by
  intro c; cases b <;> exact op_encodeFields _
theorem OpcodeField.ld (rd : Reg) (b : Operand) : OpcodeField.Statement (.ld rd b) := by
  intro c; cases b <;> exact op_encodeFields _
theorem OpcodeField.st (rs : Reg) (b : Operand) : OpcodeField.Statement (.st rs b) := by
  intro c; cases b <;> exact op_encodeFields _
theorem OpcodeField.ldi (rd : Reg) (b : Operand) : OpcodeField.Statement (.ldi rd b) := by
  intro c; cases b <;> exact op_encodeFields _
theorem OpcodeField.sti (rs : Reg) (b : Operand) : OpcodeField.Statement (.sti rs b) := by
  intro c; cases b <;> exact op_encodeFields _
theorem OpcodeField.call (ra : Reg) : OpcodeField.Statement (.call ra) := fun _ => op_encodeFields _
theorem OpcodeField.ret : OpcodeField.Statement .ret := fun _ => op_encodeFields _
theorem OpcodeField.putc (ra : Reg) : OpcodeField.Statement (.putc ra) := fun _ => op_encodeFields _
theorem OpcodeField.getc (rd : Reg) : OpcodeField.Statement (.getc rd) := fun _ => op_encodeFields _
theorem OpcodeField.nop : OpcodeField.Statement .nop := fun _ => op_encodeFields _
theorem OpcodeField.halt : OpcodeField.Statement .halt := fun _ => op_encodeFields _

end Sys2Proof.Laws
end

