-- ==== Sys2Proof/Tests/Slice0.lean ====
section
/-! SUPPORT. The model's own tests: ill-formed terms that the checks refuse, a word written out from
the spec's encoding for every constructor, single steps with the results that
`spec/95_test_vectors.md` or an instruction's rule gives, and for every statement with hypotheses
concrete values that meet them. -/

open Sys2Proof Sys2Proof.Machine Sys2Proof.Claims

namespace Sys2Proof.Tests

set_option Elab.async false

/-! ## Helpers -/

/-- The state after reset with some registers and cells set, the counter at `pc`, and the word `w` in
the cell it fetches. -/
def place (w : Word) (pc : Cell) (regs : List (Reg × Cell)) (cells : List (Nat × Cell)) : State :=
  let s := regs.foldl (fun s p => s.setReg p.1 p.2) State.reset
  let s := cells.foldl (fun s p => s.setCell p.1 p.2) s
  { s with pc := pc }.withFetchWord 64 w.toNat

/-- The state after one step, or the state itself where the step stops. -/
def after (s : State) : State :=
  match step s with
  | .next t => t
  | .fault _ => s
  | .refused _ => s

/-- The state after one instruction, or the state itself where it stops. -/
def effect (i : Instr) (s : State) : State :=
  match exec i s with
  | .next t => t
  | .fault _ => s
  | .refused _ => s

/-- The step answers a next state. -/
def answersNext (s : State) : Bool :=
  match step s with
  | .next _ => true
  | .fault _ => false
  | .refused _ => false

theorem step_after (s : State) (h : answersNext s = true) : step s = .next (after s) := by
  unfold answersNext at h
  unfold after
  cases hs : step s <;> simp [hs] at h ⊢

theorem run_one (s : State) (h : answersNext s = true) :
    Host.Core.run Sys2Proof.core 1 s = .next (after s) := by
  have e : Sys2Proof.core.step s = .next (after s) := step_after s h
  simp [Host.Core.run, e]

/-- The reason the step is refused, if it is. -/
def refusal (s : State) : Option Refusal :=
  match step s with
  | .next _ => none
  | .fault _ => none
  | .refused r => some r

theorem step_refused (s : State) (r : Refusal) (h : refusal s = some r) : step s = .refused r := by
  unfold refusal at h
  cases hs : step s <;> simp [hs] at h ⊢
  exact h

/-- The default parameters with an overflow trap. -/
def trapCfg : Config := { Config.default with intOverflow := .trap }

/-- The default parameters with a trap on unassigned opcodes. -/
def strictCfg : Config := { Config.default with illegalPolicy := .trap }

/-- The default parameters with an argument pointer that names no register. -/
def badApCfg : Config := { Config.default with apReg := 16 }

/-- The default parameters with CALL reading its register from bits 56:53 (the alternative of D4) and
ADD.F choosing its second operand by `immf`. -/
def otherUsesCfg : Config :=
  { Config.default with
    uses := (Config.defaultUses.set 36 ⟨.read, false, .unused, false⟩).set 4 ⟨.write, true, .byFlag, false⟩
    immHonoured := .addF :: Config.defaultImmHonoured }

/-- The default parameters with FTOI writing the flags from its result, rounding toward positive and
fixed results where `FP` leaves them open. -/
def otherFpCfg : Config :=
  { Config.default with
    ccWriters := (.ftoi, .int) :: Config.defaultCcWriters
    fp := ⟨.towardPositive, .fixed 0x7FF8000000000000#64, .fixed 0x8000000000000000#64⟩ }

/-- The default parameters with LDSP and JMP in `IMM_HONOURED`, and with LDR, POP and GETC writing the
flags from their result. -/
def flaggedCfg : Config :=
  { Config.default with
    immHonoured := [.ldsp, .jmp] ++ Config.defaultImmHonoured
    ccWriters := [(.ldr, .int), (.pop, .int), (.getc, .int), (.st, .int)] ++ Config.defaultCcWriters }

/-- The flags with only n, only z and only p set. -/
def ccN : CC := ⟨true, false, false⟩
def ccZ : CC := ⟨false, true, false⟩
def ccP : CC := ⟨false, false, true⟩

/-! ## Well-formedness refuses what is ill formed -/

theorem test_wellFormed_immediate_not_honoured :
    (Instr.addI 0 1 (.imm 1)).wellFormed { Config.default with immHonoured := [] } = false := by decide
theorem test_wellFormed_store_immediate_not_honoured :
    (Instr.str 0 1 (.imm 1)).wellFormed { Config.default with immHonoured := [.ldr] } = false := by
  decide
theorem test_wellFormed_float_immediate :
    (Instr.addF 0 1 (.imm 1)).wellFormed Config.default = false
      ∧ (Instr.cmpF ccN 0 1 (.imm 1)).wellFormed Config.default = false := by decide
theorem test_wellFormed_register_offset :
    (Instr.ldsp 0 (.reg 1)).wellFormed Config.default = false
      ∧ (Instr.jmp ccN (.reg 1)).wellFormed Config.default = false := by decide
theorem test_wellFormed_unused_fields :
    let c := { Config.default with uses := [] }
    (Instr.pop 1).wellFormed c = false ∧ (Instr.negI 0 1).wellFormed c = false
      ∧ (Instr.call 1).wellFormed c = false ∧ (Instr.ldsp 0 (.imm 1)).wellFormed c = false
      ∧ (Instr.jmp ccN (.imm 0)).wellFormed c = false ∧ (Instr.addI 0 0 (.reg 1)).wellFormed c = false := by
  decide
theorem test_conventionsOk_without_pool :
    Config.conventionsOk { Config.default with memCells := 3000 } = false := by decide
theorem test_opcOk_duplicate_number :
    Config.opcOk { Config.default with opc := 1#6 :: Config.defaultOpc.tail } = false := by decide
theorem test_opcOk_missing_number :
    Config.opcOk { Config.default with opc := Config.defaultOpc.tail } = false := by decide
theorem test_apRegOk_sixteen : Config.apRegOk badApCfg = false := by decide
theorem test_flagsOk_two_flags :
    flagsOk { Config.default with ccReset := ⟨true, true, false⟩ } = false := by decide
theorem test_defaults_ok : Config.opcOk Config.default = true ∧ Config.apRegOk Config.default = true
    ∧ flagsOk Config.default = true ∧ Config.conventionsOk Config.default = true := by decide

/-! ## Decoding: a word from the spec's encoding for every constructor -/

theorem test_decode_addI : decode Config.default 0x0000000000000021#64 = .ok (.addI 0 1 (.reg 2)) := by decide
theorem test_decode_addI_imm : decode Config.default 0x01D0000000003E8E#64 = .ok (.addI 14 14 (.imm 1000)) := by decide
theorem test_decode_subI : decode Config.default 0x0230000000000011#64 = .ok (.subI 1 1 (.imm 1)) := by decide
theorem test_decode_mulI : decode Config.default 0x0410000FFFFFFFD0#64 = .ok (.mulI 0 0 (.imm (-3))) := by decide
theorem test_decode_divI : decode Config.default 0x0600000000000010#64 = .ok (.divI 0 0 (.reg 1)) := by decide
theorem test_decode_addF : decode Config.default 0x0800000000000010#64 = .ok (.addF 0 0 (.reg 1)) := by decide
theorem test_decode_subF : decode Config.default 0x0A40000000000043#64 = .ok (.subF 2 3 (.reg 4)) := by decide
theorem test_decode_mulF : decode Config.default 0x0C00000000000001#64 = .ok (.mulF 0 1 (.reg 0)) := by decide
theorem test_decode_divF : decode Config.default 0x0E00000000000010#64 = .ok (.divF 0 0 (.reg 1)) := by decide
theorem test_decode_negI : decode Config.default 0x1000000000000001#64 = .ok (.negI 0 1) := by decide
theorem test_decode_negF : decode Config.default 0x12A0000000000006#64 = .ok (.negF 5 6) := by decide
theorem test_decode_and : decode Config.default 0x15D000000000000E#64 = .ok (.and 14 14 (.imm 0)) := by decide
theorem test_decode_or : decode Config.default 0x1650000000000FF3#64 = .ok (.or 2 3 (.imm 255)) := by decide
theorem test_decode_xor : decode Config.default 0x1810000FFFFFFFF0#64 = .ok (.xor 0 0 (.imm (-1))) := by decide
theorem test_decode_not : decode Config.default 0x1A00000000000001#64 = .ok (.not 0 1) := by decide
theorem test_decode_bnot : decode Config.default 0x1C00000000000001#64 = .ok (.bnot 0 1) := by decide
theorem test_decode_shl : decode Config.default 0x1E10000000000030#64 = .ok (.shl 0 0 (.imm 3)) := by decide
theorem test_decode_shr : decode Config.default 0x2000000000000010#64 = .ok (.shr 0 0 (.reg 1)) := by decide
theorem test_decode_cmpI : decode Config.default 0x22500040000000F0#64 = .ok (.cmpI ccZ 2 0 (.imm 15)) := by decide
theorem test_decode_cmpF : decode Config.default 0x2400002000000021#64 = .ok (.cmpF ccP 0 1 (.reg 2)) := by decide
theorem test_decode_itof : decode Config.default 0x2600000000000001#64 = .ok (.itof 0 1) := by decide
theorem test_decode_ftoi : decode Config.default 0x2820000000000000#64 = .ok (.ftoi 1 0) := by decide
theorem test_decode_ldr : decode Config.default 0x2A60000000000054#64 = .ok (.ldr 3 4 (.reg 5)) := by decide
theorem test_decode_str : decode Config.default 0x2C70000FFFFFFFE4#64 = .ok (.str 3 4 (.imm (-2))) := by decide
theorem test_decode_push : decode Config.default 0x2FE0000000000000#64 = .ok (.push 15) := by decide
theorem test_decode_pop : decode Config.default 0x31A0000000000000#64 = .ok (.pop 13) := by decide
theorem test_decode_ldsp : decode Config.default 0x3230000FFFFFFFF0#64 = .ok (.ldsp 1 (.imm (-1))) := by decide
theorem test_decode_stsp : decode Config.default 0x3450000000000010#64 = .ok (.stsp 2 (.imm 1)) := by decide
theorem test_decode_ldfp : decode Config.default 0x3610000FFFFFFFD0#64 = .ok (.ldfp 0 (.imm (-3))) := by decide
theorem test_decode_stfp : decode Config.default 0x3810000FFFFFFFE0#64 = .ok (.stfp 0 (.imm (-2))) := by decide
theorem test_decode_ldap : decode Config.default 0x3A10000FFFFFFFD0#64 = .ok (.ldap 0 (.imm (-3))) := by decide
theorem test_decode_stap : decode Config.default 0x3C50000000000000#64 = .ok (.stap 2 (.imm 0)) := by decide
theorem test_decode_jmp : decode Config.default 0x3E10002FFFFFFFD0#64 = .ok (.jmp ccP (.imm (-3))) := by decide
theorem test_decode_ld : decode Config.default 0x4030000000000050#64 = .ok (.ld 1 (.imm 5)) := by decide
theorem test_decode_st : decode Config.default 0x4270000000000040#64 = .ok (.st 3 (.imm 4)) := by decide
theorem test_decode_ldi : decode Config.default 0x4450000000000050#64 = .ok (.ldi 2 (.imm 5)) := by decide
theorem test_decode_sti : decode Config.default 0x4670000000000020#64 = .ok (.sti 3 (.imm 2)) := by decide
theorem test_decode_call : decode Config.default 0x4800000000000001#64 = .ok (.call 1) := by decide
theorem test_decode_ret : decode Config.default 0x4A00000000000000#64 = .ok (.ret) := by decide
theorem test_decode_putc : decode Config.default 0x4C00000000000001#64 = .ok (.putc 1) := by decide
theorem test_decode_getc : decode Config.default 0x4EE0000000000000#64 = .ok (.getc 7) := by decide
theorem test_decode_nop : decode Config.default 0x5000000000000000#64 = .ok (.nop) := by decide
theorem test_decode_halt : decode Config.default 0x5200000000000000#64 = .ok (.halt) := by decide
theorem test_decode_unassigned :
    decode Config.default 0x5400000000000000#64 = .error (.unassignedOpcode 42#6) := by decide
theorem test_decode_ignored_bits : decode Config.default 0x801FFF1000000070#64 = .ok (.addI 0 0 (.imm 7)) := by
  decide
theorem test_encode_canonical : encode Config.default (.jmp ccP (.imm (-3))) = 0x3E10002FFFFFFFD0#64
    ∧ encode Config.default (.cmpI ccZ 2 0 (.imm 15)) = 0x22500040000000F0#64
    ∧ encode Config.default (.str 3 4 (.imm (-2))) = 0x2C70000FFFFFFFE4#64 := by decide
theorem test_encode_overlap :
    encodeFields ⟨0#6, 0#4, true, CC.none, 3#32, 5#4, 0#4⟩ = 0x0010000000000070#64 := by decide
theorem test_encode_wrapper_start : wrapperStart.map (encode Config.default)
    = [0x15D000000000000E#64, 0x01D0000000003E8E#64, 0x159000000000000C#64, 0x019000000000BB8C#64] := by
  decide
/-- CALL R1 with its register in bits 56:53, and ADD.F with an immediate, under another `USES`. -/
theorem test_other_uses :
    decode otherUsesCfg 0x482000000000000F#64 = .ok (.call 1)
      ∧ encode otherUsesCfg (.call 1) = 0x4820000000000000#64
      ∧ decode otherUsesCfg 0x0810000FFFFFFFF1#64 = .ok (.addF 0 1 (.imm (-1)))
      ∧ decode Config.default 0x0810000FFFFFFFF1#64 = .ok (.addF 0 1 (.reg 15)) := by decide
/-- LDSP R1 and JMP with `immf` 0 and R2 in bits 7:4: a register where `IMM_HONOURED` has the opcode,
and by default the payload. -/
theorem test_flagged_offset :
    decode flaggedCfg 0x3220000000000020#64 = .ok (.ldsp 1 (.reg 2))
      ∧ decode Config.default 0x3220000000000020#64 = .ok (.ldsp 1 (.imm 2))
      ∧ decode flaggedCfg 0x3E00002000000020#64 = .ok (.jmp ccP (.reg 2))
      ∧ decode flaggedCfg 0x3E10002FFFFFFFD0#64 = .ok (.jmp ccP (.imm (-3)))
      ∧ encode flaggedCfg (.ldsp 1 (.reg 2)) = 0x3220000000000020#64 := by decide
theorem test_decodeTableWord : decodeTableWord 64 0x4EE0000000000000 = some (.getc 7) := by decide

/-! ## One step of each instruction -/

theorem test_addI_source_example :
    let t := after (place 0x0000000000000021#64 0 [(1, 5), (2, 3)] [])
    t.reg 0 = 8 ∧ t.cc = ccP ∧ t.pc = 1 := by decide +kernel
theorem test_addI_wraps :
    let t := after (place 0x0000000000000021#64 0 [(1, 0x7FFFFFFFFFFFFFFF), (2, 1)] [])
    t.reg 0 = 0x8000000000000000 ∧ t.cc = ccN := by decide +kernel
theorem test_subI_wraps :
    let t := after (place 0x0200000000000021#64 0 [(1, 0x8000000000000000), (2, 1)] [])
    t.reg 0 = 0x7FFFFFFFFFFFFFFF ∧ t.cc = ccP := by decide +kernel
theorem test_mulI_wraps :
    let t := after (place 0x0400000000000021#64 0 [(1, 0x4000000000000000), (2, 2)] [])
    t.reg 0 = 0x8000000000000000 ∧ t.cc = ccN := by decide +kernel
theorem test_mulI_negative_immediate :
    let t := after (place 0x0410000FFFFFFFD0#64 0 [(0, 5)] [])
    t.reg 0 = 0xFFFFFFFFFFFFFFF1 ∧ t.cc = ccN := by decide +kernel
theorem test_divI_truncates :
    let t := after (place 0x0600000000000021#64 0 [(1, 0xFFFFFFFFFFFFFFF9), (2, 2)] [])
    t.reg 0 = 0xFFFFFFFFFFFFFFFD ∧ t.cc = ccN := by decide +kernel
theorem test_divI_overflow_traps :
    let t := after (place 0x0600000000000021#64 0 [(0, 0x0000000000001111), (1, 0x8000000000000000), (2, 0xFFFFFFFFFFFFFFFF)] [])
    t.runState = .faulted .divideOverflow 0 ∧ t.reg 0 = 0x1111 ∧ t.pc = 1 := by decide +kernel
theorem test_negI_wraps :
    let t := after (place 0x1000000000000001#64 0 [(1, 0x8000000000000000)] [])
    t.reg 0 = 0x8000000000000000 ∧ t.cc = ccN := by decide +kernel
theorem test_addF_rounds :
    let t := after (place 0x0800000000000021#64 0 [(1, 0x3FB999999999999A), (2, 0x3FC999999999999A)] [])
    t.reg 0 = 0x3FD3333333333334 ∧ t.cc = CC.none := by decide +kernel
theorem test_subF_difference :
    let t := after (place 0x0A40000000000043#64 0 [(3, 0x400E000000000000), (4, 0x4002000000000000)] [])
    t.reg 2 = 0x3FF8000000000000 := by decide +kernel
theorem test_mulF_overflows_to_infinity :
    let t := after (place 0x0C00000000000021#64 0 [(1, 0x7FE1CCF385EBC8A0), (2, 0x4024000000000000)] [])
    t.reg 0 = 0x7FF0000000000000 := by decide +kernel
theorem test_divF_rounds :
    let t := after (place 0x0E00000000000021#64 0 [(1, 0x3FF0000000000000), (2, 0x4008000000000000)] [])
    t.reg 0 = 0x3FD5555555555555 := by decide +kernel
theorem test_divF_by_negative_zero :
    let t := after (place 0x0E00000000000021#64 0 [(1, 0x3FF0000000000000), (2, 0x8000000000000000)] [])
    t.reg 0 = 0xFFF0000000000000 ∧ t.runState = .running := by decide +kernel
theorem test_negF_keeps_payload :
    let t := after (place 0x1200000000000001#64 0 [(1, 0x7FF8000000000001)] [])
    t.reg 0 = 0xFFF8000000000001 ∧ t.cc = CC.none := by decide +kernel
theorem test_and_registers :
    let t := after (place 0x1400000000000021#64 0 [(1, 0xFF00), (2, 0x0FF0)] [])
    t.reg 0 = 0x0F00 ∧ t.cc = ccP := by decide +kernel
theorem test_or_sign_extends :
    let t := after (place 0x1610000FFFFFFFF1#64 0 [] [])
    t.reg 0 = 0xFFFFFFFFFFFFFFFF ∧ t.cc = ccN := by decide +kernel
theorem test_xor_registers :
    let t := after (place 0x1800000000000021#64 0 [(1, 0xFF00), (2, 0x0FF0)] [])
    t.reg 0 = 0xF0F0 := by decide +kernel
theorem test_not_all_ones :
    let t := after (place 0x1A00000000000001#64 0 [(1, 0xFFFFFFFFFFFFFFFF)] [])
    t.reg 0 = 0 ∧ t.cc = ccZ := by decide +kernel
theorem test_bnot_sign_bit_is_true :
    let t := after (place 0x1C00000000000001#64 0 [(1, 0x8000000000000000)] [])
    t.reg 0 = 0 ∧ t.cc = ccZ := by decide +kernel
theorem test_shl_low_six_bits :
    let t := after (place 0x1E00000000000021#64 0 [(1, 3), (2, 66)] [])
    t.reg 0 = 12 ∧ t.cc = ccP := by decide +kernel
theorem test_shr_rounds_down :
    let t := after (place 0x2010000000000011#64 0 [(1, 0xFFFFFFFFFFFFFFF9)] [])
    t.reg 0 = 0xFFFFFFFFFFFFFFFC ∧ t.cc = ccN := by decide +kernel
theorem test_cmpI_signed :
    let t := after (place 0x2200008000000021#64 0 [(1, 0x8000000000000000), (2, 1)] [])
    t.reg 0 = 1 ∧ t.cc = ccN := by decide +kernel
theorem test_cmpI_reads_before_it_writes :
    let t := after (place 0x2220002000000011#64 0 [(1, 77)] [])
    t.reg 1 = 0 ∧ t.cc = ccZ := by decide +kernel
theorem test_cmpF_zeros_are_equal :
    let t := after (place 0x2400004000000021#64 0 [(1, 0x8000000000000000), (2, 0)] [])
    t.reg 0 = 1 ∧ t.cc = ccZ := by decide +kernel
theorem test_cmpF_nan_is_unordered :
    let t := after (place 0x240000E000000021#64 0 [(0, 9), (1, 0x7FF8000000000000), (2, 0x3FF0000000000000)] [])
    t.reg 0 = 0 ∧ t.cc = CC.none := by decide +kernel
theorem test_itof_tie_to_even :
    let t := after (place 0x2600000000000001#64 0 [(1, 0x0020000000000003)] [])
    t.reg 0 = 0x4340000000000002 := by decide +kernel
theorem test_ftoi_truncates :
    let t := after (place 0x2800000000000001#64 0 [(1, 0xC007333333333333)] [])
    t.reg 0 = 0xFFFFFFFFFFFFFFFE := by decide +kernel
theorem test_ftoi_greatest :
    let t := after (place 0x2800000000000001#64 0 [(1, 0x43DFFFFFFFFFFFFF)] [])
    t.reg 0 = 0x7FFFFFFFFFFFFC00 := by decide +kernel
theorem test_ldr_negative_offset :
    let t := after (place 0x2A60000000000054#64 0 [(4, 2000), (5, 0xFFFFFFFFFFFFFFFD)] [(1997, 99)])
    t.reg 3 = 99 ∧ t.reg 4 = 2000 := by decide +kernel
theorem test_ldr_out_of_range_traps :
    let t := after (place 0x2A10000FFFFFFFF1#64 0 [(0, 7), (1, 0)] [])
    t.runState = .faulted .memOutOfRange 0xFFFFFFFFFFFFFFFF ∧ t.reg 0 = 7 ∧ t.pc = 1 := by decide +kernel
theorem test_str_immediate :
    let t := after (place 0x2C70000FFFFFFFE4#64 0 [(3, 77), (4, 1010)] [])
    t.cell 1008 = 77 ∧ t.reg 4 = 1010 := by decide +kernel
theorem test_push_increments_first :
    let t := after (place 0x2E00000000000000#64 0 [(0, 41), (14, BitVec.ofNat 64 stackBase)] [])
    t.reg 14 = 1001 ∧ t.cell 1001 = 41 := by decide +kernel
theorem test_push_of_the_stack_pointer :
    let t := after (place 0x2FC0000000000000#64 0 [(14, 1000)] [])
    t.reg 14 = 1001 ∧ t.cell 1001 = 1001 := by decide +kernel
theorem test_pop_into_the_stack_pointer :
    let t := after (place 0x31C0000000000000#64 0 [(14, 1001)] [(1001, 500)])
    t.reg 14 = 499 := by decide +kernel
theorem test_pop_underflow_traps :
    let t := after (place 0x3000000000000000#64 0 [(0, 7)] [])
    t.runState = .faulted .stackUnderflow 0 ∧ t.reg 0 = 7 := by decide +kernel
theorem test_ldsp_below :
    let t := after (place 0x3230000FFFFFFFF0#64 0 [(14, 1001)] [(1000, 66)])
    t.reg 1 = 66 := by decide +kernel
theorem test_stsp_above :
    let t := after (place 0x3450000000000010#64 0 [(2, 9), (14, 1001)] [])
    t.cell 1002 = 9 ∧ t.reg 14 = 1001 := by decide +kernel
theorem test_ldfp_argument :
    let t := after (place 0x3610000FFFFFFFD0#64 0 [(13, 1004)] [(1001, 41)])
    t.reg 0 = 41 := by decide +kernel
theorem test_stfp_result_slot :
    let t := after (place 0x3810000FFFFFFFE0#64 0 [(0, 42), (13, 1004)] [])
    t.cell 1002 = 42 := by decide +kernel
theorem test_ldap_reads_its_pointer :
    let t := after (place 0x3A10000FFFFFFFD0#64 0 [(11, 1004)] [(1001, 41)])
    t.reg 0 = 41 := by decide +kernel
theorem test_stap_writes_its_cell :
    let t := after (place 0x3C50000000000000#64 0 [(2, 9), (11, 1004)] [])
    t.cell 1004 = 9 := by decide +kernel
theorem test_jmp_taken :
    let t := after { place 0x3E10004000000020#64 4 [] [] with cc := ccZ }
    t.pc = 7 ∧ t.cc = ccZ := by decide +kernel
theorem test_jmp_not_taken :
    let t := after { place 0x3E10004000000020#64 4 [] [] with cc := ccN }
    t.pc = 5 := by decide +kernel
theorem test_ld_direct :
    let t := after (place 0x4030000000000050#64 0 [] [(6, 7)])
    t.reg 1 = 7 := by decide +kernel
theorem test_st_direct :
    let t := after (place 0x4270000000000040#64 3 [(3, 1241)] [])
    t.cell 8 = 1241 := by decide +kernel
theorem test_ldi_indirect :
    let t := after (place 0x4450000000000050#64 1 [] [(7, 9), (9, 1234)])
    t.reg 2 = 1234 := by decide +kernel
theorem test_sti_indirect :
    let t := after (place 0x4670000000000020#64 4 [(3, 1241)] [(7, 9)])
    t.cell 9 = 1241 ∧ t.cell 7 = 9 := by decide +kernel
theorem test_call_saves_the_next_address :
    let t := after (place 0x4800000000000000#64 9 [(0, 14)] [])
    t.reg 15 = 10 ∧ t.pc = 14 := by decide +kernel
theorem test_call_through_the_link_register :
    let t := after (place 0x480000000000000F#64 9 [(15, 14)] [])
    t.reg 15 = 10 ∧ t.pc = 10 := by decide +kernel
theorem test_ret_goes_to_the_link_register :
    let t := after (place 0x4A00000000000000#64 3 [(15, 10)] [])
    t.pc = 10 ∧ t.reg 15 = 10 := by decide +kernel
theorem test_putc_low_byte :
    let t := after (place 0x4C00000000000000#64 0 [(0, 0x120E)] [])
    t.output = [14#8] := by decide +kernel
theorem test_getc_zero_extends :
    let t := after ((place 0x4EE0000000000000#64 0 [] []).supplyInput [0x41#8])
    t.reg 7 = 0x41 ∧ t.input = [] ∧ t.inputRead = [0x41#8] := by decide +kernel
theorem test_getc_waits :
    let t := after (place 0x4EE0000000000000#64 0 [] [])
    t = place 0x4EE0000000000000#64 0 [] [] := by decide +kernel
theorem test_nop_only_advances :
    let t := after (place 0x5000000000000000#64 0 [] [])
    t = { place 0x5000000000000000#64 0 [] [] with pc := 1 } := by decide +kernel
theorem test_halt_stops_after_advancing :
    let t := after (place 0x5200000000000000#64 0 [] [])
    t.runState = .halted ∧ t.pc = 1 := by decide +kernel
theorem test_unassigned_is_skipped :
    let t := after (place 0x5400000000000000#64 0 [] [])
    t.illegalSeen = true ∧ t.pc = 1 ∧ t.runState = .running := by decide +kernel

/-! ## One step under other parameters -/

theorem test_divF_toward_positive :
    let t := after { place 0x0E00000000000021#64 0 [(1, 0x3FF0000000000000), (2, 0x4008000000000000)] [] with
      cfg := otherFpCfg }
    t.reg 0 = 0x3FD5555555555556 := by decide +kernel
theorem test_divF_fixed_nan :
    let t := after { place 0x0E00000000000021#64 0 [] [] with cfg := otherFpCfg }
    t.reg 0 = 0x7FF8000000000000 ∧ t.draws = 1 := by decide +kernel
theorem test_ftoi_fixed_and_flags :
    let t := after { place 0x2800000000000001#64 0 [(1, 0x7FF0000000000000)] [] with cfg := otherFpCfg }
    t.reg 0 = 0x8000000000000000 ∧ t.cc = ccN := by decide +kernel

theorem test_ldsp_register_offset :
    let t := after { place 0x3220000000000020#64 0 [(14, 1000), (2, 7)] [(1007, 99)] with cfg := flaggedCfg }
    t.reg 1 = 99 ∧ t.reg 14 = 1000 := by decide +kernel
theorem test_jmp_register_offset :
    let t := after { place 0x3E00002000000020#64 0 [(2, 7)] [] with cfg := flaggedCfg, cc := ccP }
    t.pc = 8 := by decide +kernel
theorem test_ldr_writes_flags :
    let t := after { place 0x2A10000000000071#64 0 [(1, 0)] [(7, 0xFFFFFFFFFFFFFFFF)] with cfg := flaggedCfg }
    t.cc = ccN ∧ t.reg 0 = 0xFFFFFFFFFFFFFFFF := by decide +kernel
theorem test_pop_writes_flags :
    let t := after { place 0x31C0000000000000#64 0 [(14, 7)] [(7, 0)] with cfg := flaggedCfg }
    t.cc = ccZ ∧ t.reg 14 = 0xFFFFFFFFFFFFFFFF := by decide +kernel
theorem test_st_has_no_result :
    let t := after { place 0x4270000000000040#64 0 [(3, 5)] [] with cfg := flaggedCfg }
    t.cc = CC.none ∧ (decOutput flaggedCfg 0x4270000000000040#64).ctl.ccWe = false := by decide +kernel

/-! ## Witnesses: values that meet the hypotheses of the statements

The names follow the statements. A hypothesis that a clause adds is met at a boundary value. -/

/-- DecodeAfterEncodeReturnsTheFields: both overlapping fields zero, and each alone at its greatest. -/
theorem witness_decode_after_encode :
    (Fields.zero.sr2 = 0#4 ∧ Fields.zero.imm = 0#32)
      ∧ (let f : Fields := ⟨63#6, 15#4, true, ⟨true, true, true⟩, 0xFFFFFFFF#32, 0#4, 15#4⟩
         f.sr2 = 0#4 ∧ decodeFields (encodeFields f) = { f with sr2 := 15#4 })
      ∧ (let f : Fields := ⟨63#6, 15#4, true, ⟨true, true, true⟩, 0xFFFFFFF0#32, 15#4, 15#4⟩
         f.imm.extractLsb' 0 4 = 0#4 ∧ (decodeFields (encodeFields f)).sr2 = 15#4) := by decide +kernel
/-- OpcodeNumbersFollowTheTable: two words with the same opcode and nothing else in common. -/
theorem witness_same_opcode :
    (decodeFields 0x2C70000FFFFFFFE4#64).op = (decodeFields 0x2C00000000000001#64).op
      ∧ 0x2C70000FFFFFFFE4#64 ≠ 0x2C00000000000001#64 := by decide
/-- EncodeAfterDecodeKeepsTheFieldBits: the word of all field bits has the ignored bits zero. -/
theorem witness_encode_after_decode :
    fieldMask &&& ignoredMask = 0#64 ∧ encodeFields (decodeFields fieldMask) = fieldMask := by
  decide +kernel
/-- IgnoredBitsAffectNoOutput: two words that differ in ignored bits alone. -/
theorem witness_ignored_bits :
    0x800FFF1000000021#64 &&& fieldMask = 0x21#64 &&& fieldMask ∧ 0x800FFF1000000021#64 ≠ 0x21#64 := by
  decide
/-- DecodeOfEncodeIsTheInstruction, DecodedInstructionsAreWellFormed. -/
theorem witness_round_trip :
    Config.opcOk Config.default = true ∧ (Instr.str 15 14 (.imm (-1))).wellFormed Config.default = true
      ∧ Config.default.AtDefaults
      ∧ decode Config.default 0x2C70000FFFFFFFE4#64 = .ok (.str 3 4 (.imm (-2))) := by decide
/-- DecodeOfEncodeIsTheInstruction: another injective numbering, with HALT at 63. -/
theorem witness_other_numbering :
    Config.opcOk { Config.default with opc := (List.range 42).map fun k => BitVec.ofNat 6 (22 + k) } = true := by
  decide
/-- DecodeOfEncodeIsTheInstruction: another field-use table, with an immediate of ADD.F. -/
theorem witness_other_uses :
    Config.opcOk otherUsesCfg = true ∧ (Instr.addF 0 1 (.imm (-1))).wellFormed otherUsesCfg = true
      ∧ (Instr.call 15).wellFormed otherUsesCfg = true := by decide
/-- UnusedFieldsAreIgnored: NEG.I with every unused bit set. -/
theorem witness_unused_fields :
    let w : Word := 0x1000000000000001
    let w' : Word := 0x901FFFFFFFFFFFF1
    Config.default.opOfCode (decodeFields w).op = some .negI
      ∧ w &&& Config.default.usedMask .negI (decodeFields w).immf
          = w' &&& Config.default.usedMask .negI (decodeFields w).immf ∧ w ≠ w' := by decide +kernel
/-- ControlRecordFollowsTheTable, DecValidAndHalt: the last assigned opcode and the first unassigned. -/
theorem witness_control_record :
    Config.default.opOfCode (decodeFields 0x5200000000000000#64).op = some .halt
      ∧ (decOutput Config.default 0x5200000000000000#64).halt = true
      ∧ (decOutput Config.default 0x5400000000000000#64).valid = false := by decide +kernel
/-- FlagRegisterHoldsOrTakes: one input for each clause. -/
theorem witness_flag_register :
    let i : CcuInput := ⟨true, false, false, 0, 0, CC.none⟩
    let j : CcuInput := ⟨false, true, true, 0, 2, ccP⟩
    i.rst = true ∧ i.ccWe = false ∧ i.ccSel = false ∧ j.rst = false ∧ j.ccWe = true ∧ j.ccSel = true
      ∧ j.ccOrd = portOfOrder .greater ∧ { j with ccWe := false }.ccWe = false := by decide
/-- A word whose step meets the hypotheses of StepFlagsAreTheUnits (with `step_after`). -/
abbrev plainStep (w : Word) : Prop :=
  (place w 0 [] []).cfg.AtDefaults ∧ (place w 0 [] []).runState = .running
    ∧ (place w 0 [] []).fetch = some w ∧ answersNext (place w 0 [] []) = true
    ∧ (after (place w 0 [] [])).trapped = false
/-- StepFlagsAreTheUnits: a step of ADD.I, of CMP.I and of JMP. -/
theorem witness_step_flags :
    plainStep 0x21 ∧ plainStep 0x2200004000000021 ∧ plainStep 0x3E10004000000020 := by decide +kernel
/-- SecondOperandForms. -/
theorem witness_second_operand :
    Config.default.AtDefaults ∧ Op.str ∈ Config.defaultImmHonoured
      ∧ Op.ldsp ∈ flaggedCfg.immHonoured ∧ (flaggedCfg.usesOf .ldsp).payload ≠ .unused := by decide
/-- ResultFlagsAreTheSign: POP R14 and GETC with a byte, both configured to write the flags. -/
theorem witness_result_flags :
    let s := { place 0 1 [(14, 7)] [(7, 0)] with cfg := flaggedCfg }
    let u := s.supplyInput [0x41#8]
    s.cfg.ccWriters.lookup (Instr.pop 14#4).op = some .int ∧ resultReg (.pop 14#4) = some 14#4
      ∧ (effect (.pop 14#4) s).trapped = false ∧ (effect (.pop 14#4) s).cc = ccZ
      ∧ u.cfg.ccWriters.lookup (Instr.getc 7).op = some .int ∧ u.input ≠ []
      ∧ (effect (.getc 7) u).cc = ccP := by decide +kernel
/-- LoadsReadTheAddressedCell, PopLoadsThenDecrements, GetcTakesTheNextByte: `KeepsFlags`, by default
and for an opcode that is not listed. -/
theorem witness_keeps_flags :
    State.reset.cfg.ccWriters = Config.defaultCcWriters
      ∧ flaggedCfg.ccWriters ≠ Config.defaultCcWriters
      ∧ flaggedCfg.ccSource (Instr.ldsp 0 (.imm 1)).op = none := by decide
/-- IntegerArithmeticResults: the default parameters wrap; under the overflow trap the greatest sum
that fits and the least that does not. -/
theorem witness_integer_arithmetic :
    State.reset.cfg.ccWriters = Config.defaultCcWriters ∧ State.reset.cfg.intOverflow = .wrap
      ∧ (let s := { place 0 0 [(1, 0x7FFFFFFFFFFFFFFE)] [] with cfg := trapCfg }
         s.cfg.intOverflow = .trap ∧ s.cfg.ccWriters = Config.defaultCcWriters
          ∧ (s.reg 1).toInt + (s.operand (.imm 1)).toInt = 2 ^ 63 - 1
          ∧ (s.reg 1).toInt + (s.operand (.imm 2)).toInt = 2 ^ 63
          ∧ (effect (.addI 0 1 (.imm 1)) s).reg 0 = 0x7FFFFFFFFFFFFFFF
          ∧ (effect (.addI 0 1 (.imm 2)) s).runState = .faulted .integerOverflow (s.pc - 1)) := by
  decide +kernel
/-- DivideResultsAndTraps: the three clauses. -/
theorem witness_divide :
    let s := place 0 0 [(1, 0x8000000000000000)] []
    s.cfg.ccWriters = Config.defaultCcWriters ∧ s.operand (.imm 0) = 0#64
      ∧ (s.reg 1).toInt = -2 ^ 63 ∧ (s.operand (.imm (-1))).toInt = -1
      ∧ s.operand (.imm 1) ≠ 0#64
      ∧ ¬((s.reg 1).toInt = -2 ^ 63 ∧ (s.operand (.imm 1)).toInt = -1)
      ∧ (effect (.divI 0 1 (.imm 1)) s).reg 0 = 0x8000000000000000 := by decide +kernel
/-- FloatArithmeticResults, FloatSpecialCases: a number, a NaN operand, and 0 / 0. -/
theorem witness_float_results :
    State.reset.cfg.ccWriters = Config.defaultCcWriters
      ∧ fpAdd .nearestEven 0x3FF8000000000000 0x4002000000000000 = some 0x400E000000000000
      ∧ isNan 0x7FF0000000000001 = true ∧ fpAdd .nearestEven 0x7FF0000000000001 0 = none
      ∧ fpDiv .nearestEven 0 0 = none ∧ isNan 0x7FF0000000000000 = false := by decide +kernel
/-- FloatSpecialCases: finite operands with a sum, a difference, a product and a quotient, and a
rounding that is not toward negative. -/
theorem witness_finite_results :
    fpValue 3 = .fin false 3 ∧ fpValue 0x8000000000000001 = .fin true 1
      ∧ signed false 3 + signed true 1 ≠ 0 ∧ signed false 3 - signed true 1 ≠ 0 ∧ (1 : Nat) ≠ 0
      ∧ fpAdd .nearestEven 3 0x8000000000000001 = some 2
      ∧ fpSub .nearestEven 3 0x8000000000000001 = some 4
      ∧ Rounding.nearestEven ≠ .towardNegative := by decide +kernel
/-- FloatSpecialCases, ExactValuesAreNotRounded, FloatOrdering: the least subnormal is one unit. -/
theorem witness_finite :
    fpValue 1 = .fin false 1 ∧ (1 : Nat) ≠ 0 ∧ fpValue 0x8000000000000003 = .fin true 3
      ∧ 0 < (2 : Nat) ∧ fpRound .towardPositive false (1 * 2) 2 = 1 := by decide +kernel
/-- RoundingIsToNearestEven: one and a half units lie as near to 1 as to 2. -/
theorem witness_rounding_tie :
    0 < (2 : Nat) ∧ roundMag .nearestEven false 3 2 = 2 ∧ roundMag .nearestEven true 3 2 < fpInfMag
      ∧ distance 3 2 1 = distance 3 2 2 := by
  decide +kernel
/-- RoundingIsToNearestEven: the least value that rounds to infinity, and the integer below it. -/
theorem witness_rounding_infinity :
    roundMag .nearestEven false ((2 ^ 54 - 1) * 2 ^ 2044) 1 = fpInfMag
      ∧ roundMag .nearestEven false ((2 ^ 54 - 1) * 2 ^ 2044 - 1) 1 < fpInfMag := by decide +kernel
/-- ConversionResults: -2^63 fits, the double below it and 2^63 do not, an infinity is no number. -/
theorem witness_conversion :
    let s := place 0 0 [(1, 0xC3E0000000000000), (2, 0xC3E0000000000001), (3, 0x43E0000000000000),
      (4, 0x7FF0000000000000)] []
    s.cfg.ccWriters = Config.defaultCcWriters
      ∧ fpValue (s.reg 1) = .fin true (2 ^ 63 * 2 ^ 1074)
      ∧ -2 ^ 63 ≤ signed true (2 ^ 63 * 2 ^ 1074 / 2 ^ 1074)
      ∧ fpValue (s.reg 2) = .fin true ((2 ^ 63 + 2 ^ 11) * 2 ^ 1074)
      ∧ signed true ((2 ^ 63 + 2 ^ 11) * 2 ^ 1074 / 2 ^ 1074) < -2 ^ 63
      ∧ fpValue (s.reg 3) = .fin false (2 ^ 63 * 2 ^ 1074)
      ∧ 2 ^ 63 - 1 < signed false (2 ^ 63 * 2 ^ 1074 / 2 ^ 1074)
      ∧ fpValue (s.reg 4) = .inf false := by decide +kernel
/-- SmallIntegersConvertExactly: both ends. -/
theorem witness_small_integers :
    (2 ^ 53 : Int).natAbs ≤ 2 ^ 53 ∧ (-2 ^ 53 : Int).natAbs ≤ 2 ^ 53
      ∧ fpToInt (fpOfInt .towardZero (-2 ^ 53)) = some (BitVec.ofInt 64 (-2 ^ 53)) := by decide +kernel
/-- BitwiseResults, ShiftResults, IntegerCompareResults, FloatCompareResults. -/
theorem witness_result_parameters :
    State.reset.cfg.ccWriters = Config.defaultCcWriters ∧ State.reset.cfg.shiftAmount = .lowSix
      ∧ State.reset.cfg.AtDefaults ∧ State.reset.reg 0 = 0#64
      ∧ (place 0 0 [(1, 0x8000000000000000)] []).reg 1 ≠ 0#64
      ∧ isNan ((place 0 0 [(1, 0x7FF8000000000000)] []).reg 1) = true := by decide +kernel
/-- ShiftResults: a count of 65 under the low six bits, and of 63 under the other choice. -/
theorem witness_shift :
    let s := place 0 0 [(1, 65), (2, 63)] []
    let t := { s with cfg := { Config.default with shiftAmount := .other } }
    s.cfg.ccWriters = Config.defaultCcWriters ∧ s.cfg.shiftAmount = .lowSix
      ∧ 1 = (s.operand (.reg 1)).toNat % 64 ∧ t.cfg.ccWriters = Config.defaultCcWriters
      ∧ t.cfg.shiftAmount = .other ∧ (t.operand (.reg 2)).toNat ≤ 63
      ∧ 63 = (t.operand (.reg 2)).toNat := by decide +kernel
/-- IntegerCompareResults: the request n of 2 and 3 is met, that of 3 and 3 is not. -/
theorem witness_compare :
    let s := place 0 0 [(1, 2), (2, 3)] []
    (ccN.n = true ∧ (s.reg 1).toInt < (s.operand (.reg 2)).toInt)
      ∧ ¬((ccN.n = true ∧ (s.reg 2).toInt < (s.operand (.reg 2)).toInt)
        ∨ (ccN.z = true ∧ (s.reg 2).toInt = (s.operand (.reg 2)).toInt)
        ∨ (ccN.p = true ∧ (s.operand (.reg 2)).toInt < (s.reg 2).toInt)) := by decide +kernel
/-- LoadsReadTheAddressedCell, StoresWriteTheAddressedCell, MemoryPrimitives: the last cell and the
first index outside; the argument pointer is R11. -/
theorem witness_memory_bounds :
    (0xFFF : Cell).toNat < State.reset.cfg.memCells ∧ State.reset.cfg.memCells ≤ (0x1000 : Cell).toNat
      ∧ State.reset.cfg.apReg = (11#4 : Reg).toNat := by decide
/-- IndirectAccessesFollowThePointer: a pointer cell in range and one out of range. -/
theorem witness_indirect :
    let s := place 0 0 [] []
    (s.pc + s.operand (.imm 5)).toNat < s.cfg.memCells
      ∧ s.cfg.memCells ≤ (s.pc + s.operand (.imm (-1))).toNat
      ∧ (s.pc + s.operand (.imm 4095)).toNat < s.cfg.memCells
      ∧ s.cfg.memCells ≤ (s.pc + s.operand (.imm 4096)).toNat := by decide +kernel
/-- MisconfiguredArgumentPointerTraps: the least index that names no register. -/
theorem witness_misconfigured :
    16 ≤ { State.reset with cfg := badApCfg }.cfg.apReg
      ∧ (effect (.ldap 0 (.imm 0)) { State.reset with cfg := badApCfg }).runState
          = .faulted .registerOutOfRange 16 := by decide +kernel
/-- PushIncrementsThenStores: the last cell, and one beyond. -/
theorem witness_push :
    ((place 0 0 [(14, 4094)] []).reg 14#4 + 1#64).toNat < State.reset.cfg.memCells
      ∧ State.reset.cfg.memCells ≤ ((place 0 0 [(14, 4095)] []).reg 14#4 + 1#64).toNat := by
  decide +kernel
/-- PopLoadsThenDecrements: R14 of 0, 4096 and 1. -/
theorem witness_pop :
    (place 0 0 [(14, 0)] []).reg 14#4 = 0#64
      ∧ State.reset.cfg.memCells ≤ ((place 0 0 [(14, 4096)] []).reg 14#4).toNat
      ∧ (place 0 0 [(14, 1)] []).reg 14#4 ≠ 0#64
      ∧ ((place 0 0 [(14, 1)] []).reg 14#4).toNat < State.reset.cfg.memCells
      ∧ (0#4 : Reg) ≠ 14#4 := by decide +kernel
/-- PushThenPopRestores. -/
theorem witness_push_pop :
    let s := place 0 0 [(14, 4094)] []
    (0#4 : Reg) ≠ 14#4 ∧ s.reg 14#4 + 1#64 ≠ 0#64
      ∧ (s.reg 14#4 + 1#64).toNat < s.cfg.memCells := by decide +kernel
/-- A word placed at the counter is fetched. -/
theorem fetches_place {w : Word} {i : Instr} (regs : List (Reg × Cell)) (cells : List (Nat × Cell))
    (hr : (place w 0 regs cells).runState = .running) (hf : (place w 0 regs cells).fetch = some w)
    (hd : decode (place w 0 regs cells).cfg w = .ok i) : Fetches (place w 0 regs cells) i :=
  ⟨hr, w, hf, hd⟩
/-- StoreIsSeenByTheNextFetch: ST, PUSH and STI store a HALT word over the next instruction. -/
theorem witness_store_fetch :
    let s := place 0x4270000000000000 0 [(3, 0x5200000000000000)] []
    let u := place 0x2E60000000000000 0 [(3, 0x5200000000000000)] []
    let v := place 0x4670000000000010 0 [(3, 0x5200000000000000)] [(2, 1)]
    (Fetches s (.st 3 (.imm 0#32)) ∧ storeOf { s with pc := s.pc + 1#64 } (.st 3 (.imm 0#32))
        = some (s.pc + 1#64, 0x5200000000000000) ∧ (s.pc + 1#64).toNat < s.cfg.memCells)
      ∧ (Fetches u (.push 3) ∧ storeOf { u with pc := u.pc + 1#64 } (.push 3)
        = some (u.pc + 1#64, 0x5200000000000000))
      ∧ (Fetches v (.sti 3 (.imm 1#32)) ∧ storeOf { v with pc := v.pc + 1#64 } (.sti 3 (.imm 1#32))
        = some (v.pc + 1#64, 0x5200000000000000)) :=
  ⟨⟨fetches_place _ _ (by decide +kernel) (by decide +kernel) (by decide +kernel),
      by decide +kernel, by decide +kernel⟩,
    ⟨fetches_place _ _ (by decide +kernel) (by decide +kernel) (by decide +kernel),
      by decide +kernel⟩,
    ⟨fetches_place _ _ (by decide +kernel) (by decide +kernel) (by decide +kernel),
      by decide +kernel⟩⟩
/-- LoaderPlacesStreamAndPool: two words and one pool cell, with the cells 2, 2999 and 3001 outside. -/
theorem witness_loader :
    let s := State.reset.loadProgram [1, 2] [7]
    ([1, 2] : List Cell)[1]? = some 2 ∧ ([7] : List Cell)[0]? = some 7
      ∧ ([1, 2] : List Cell).length ≤ 2 ∧ 3000 + ([7] : List Cell).length ≤ 3001
      ∧ s.cell 1 = 2 ∧ s.cell 3000 = 7 := by decide +kernel
/-- LoaderPlacesStreamAndPool: a stream of more than 3000 words has a word beyond a pool of one. -/
theorem witness_long_stream :
    (List.replicate 3002 (1 : Cell))[3001]? = some 1 ∧ 3000 + ([7] : List Cell).length ≤ 3001 := by
  refine ⟨?_, by decide⟩
  rw [List.getElem?_replicate, if_pos (by decide)]
/-- JumpIsTakenOnARequestedFlag: z requested of z, z of n, and nothing of z. -/
theorem witness_jump :
    (ccZ.z = true ∧ { State.reset with cc := ccZ }.cc.z = true)
      ∧ ¬((ccZ.n = true ∧ ccN.n = true) ∨ (ccZ.z = true ∧ ccN.z = true) ∨ (ccZ.p = true ∧ ccN.p = true))
      ∧ State.reset.cc = CC.none := by decide
/-- GetcTakesTheNextByte. -/
theorem witness_getc :
    (State.reset.supplyInput [0x41#8]).input = 0x41#8 :: [] := rfl
/-- GetcWaitsForInput: waiting, blocked at the end of input, and refused there. -/
theorem witness_getc_waits :
    let s := place 0x4EE0000000000000 0 [] []
    let r := { s.endInput with cfg := { Config.default with getcEof := .refuse } }
    Fetches s (.getc 7) ∧ s.input = [] ∧ s.inputEnded = false ∧ s.cfg.getcEof = .block
      ∧ Fetches r (.getc 7) ∧ r.input = [] ∧ r.inputEnded = true ∧ r.cfg.getcEof = .refuse
      ∧ step r = .refused .endOfInput :=
  ⟨fetches_place _ _ (by decide +kernel) (by decide +kernel) (by decide +kernel), by decide +kernel,
    by decide +kernel, by decide +kernel,
    ⟨by decide +kernel, 0x4EE0000000000000, by decide +kernel, by decide +kernel⟩,
    by decide +kernel, by decide +kernel, by decide +kernel, step_refused _ _ (by decide +kernel)⟩
/-- StepRunsTheDecodedInstruction, CounterAfterEachInstruction, and the statements about every step. -/
theorem witness_step :
    let s := place 0x21 0 [(1, 5), (2, 3)] []
    Fetches s (.addI 0 1 (.reg 2)) ∧ step s = .next (after s) ∧ (after s).pc = s.pc + 1#64 := by
  intro s
  exact ⟨⟨by decide +kernel, 0x21, by decide +kernel, by decide +kernel⟩, step_after s (by decide +kernel),
    by decide +kernel⟩
/-- StepRunsTheDecodedInstruction: the last cell of memory can hold the word. -/
theorem witness_placed_word :
    let s := { State.reset with pc := 4095 }
    s.runState = .running ∧ s.pc.toNat < s.cfg.memCells
      ∧ decode s.cfg 0x5200000000000000#64 = .ok .halt := by decide
/-- UnassignedOpcodesAreSkippedOrTrap, CounterAfterEachInstruction: the first unassigned number, under
both policies. -/
theorem witness_unassigned :
    let s := place 0x5400000000000000 0 [] []
    let r := { s with cfg := strictCfg }
    s.runState = .running ∧ s.fetch = some 0x5400000000000000
      ∧ decode s.cfg 0x5400000000000000 = .error (.unassignedOpcode 42#6)
      ∧ s.cfg.illegalPolicy = .skip ∧ r.cfg.illegalPolicy = .trap
      ∧ r.fetch = some 0x5400000000000000 ∧ Config.default.AtDefaults
      ∧ (after r).runState = .faulted .illegalOpcode 0x5400000000000000 := by decide +kernel
/-- FetchOutsideMemoryTraps: the first index outside. -/
theorem witness_fetch_fault :
    let s := { State.reset with pc := 4096 }
    s.runState = .running ∧ s.cfg.memCells ≤ s.pc.toNat
      ∧ (after s).runState = .faulted .memOutOfRange 4096 := by decide +kernel
/-- TerminalStatesMakeNoStep. -/
theorem witness_terminal :
    { State.reset with runState := .halted }.runState = .halted
      ∧ (State.reset.takeTrap .divideByZero 0).runState = .faulted .divideByZero 0 := by decide
/-- TheEndOfARunIsUnique: a HALT word ends its run in one step. -/
theorem witness_end_of_run :
    HaltsWith (place 0x5200000000000000 0 [] []) (after (place 0x5200000000000000 0 [] [])) :=
  ⟨⟨1, run_one _ (by decide +kernel)⟩, by decide +kernel, by decide +kernel⟩
/-- TrapsArePrecise, CausesAriseOnlyAsListed: steps that take each of the causes 1 to 4. -/
theorem witness_traps :
    let a := place 0x2A10000000000001 0 [(1, 4096)] []
    let b := place 0x0610000000000001 0 [(1, 9)] []
    let c := place 0x0600000000000021 0 [(1, 0x8000000000000000), (2, 0xFFFFFFFFFFFFFFFF)] []
    let d := place 0x3000000000000000 0 [] []
    (a.runState = .running ∧ step a = .next (after a) ∧ (after a).runState = .faulted .memOutOfRange 4096)
      ∧ (step b = .next (after b) ∧ (after b).runState = .faulted .divideByZero 0)
      ∧ (step c = .next (after c) ∧ (after c).runState = .faulted .divideOverflow 0)
      ∧ (step d = .next (after d) ∧ (after d).runState = .faulted .stackUnderflow 0) := by
  refine ⟨⟨?_, step_after _ ?_, ?_⟩, ⟨step_after _ ?_, ?_⟩, ⟨step_after _ ?_, ?_⟩, step_after _ ?_, ?_⟩
    <;> decide +kernel
/-- TrapsArePrecise, CausesAriseOnlyAsListed: steps that take the causes 5 and 7, and a fetch fault. -/
theorem witness_configured_traps :
    let a := { place 0x3A10000000000000 0 [] [] with cfg := badApCfg }
    let b := { place 0x0000000000000021 0 [(1, 0x7FFFFFFFFFFFFFFF), (2, 1)] [] with cfg := trapCfg }
    let c := { State.reset with pc := 4096 }
    (step a = .next (after a) ∧ (after a).runState = .faulted .registerOutOfRange 16)
      ∧ (step b = .next (after b) ∧ (after b).runState = .faulted .integerOverflow 0)
      ∧ (step c = .next (after c) ∧ (after c).runState = .faulted .memOutOfRange 4096) := by
  refine ⟨⟨step_after _ ?_, ?_⟩, ⟨step_after _ ?_, ?_⟩, step_after _ ?_, ?_⟩ <;> decide +kernel
/-- CounterAfterEachInstruction: a GETC with a byte to read. -/
theorem witness_counter_getc :
    let s := (place 0x4EE0000000000000 0 [] []).supplyInput [0x41#8]
    Fetches s (.getc 7) ∧ step s = .next (after s) ∧ s.input ≠ [] :=
  ⟨⟨by decide +kernel, 0x4EE0000000000000, by decide +kernel, by decide +kernel⟩, step_after _ (by decide +kernel),
    by decide⟩
/-- OnlyWritersChangeTheFlags, OnlyStoresChangeMemory: NOP is no writer and no store; a trap. -/
theorem witness_non_writer :
    let s := place 0x5000000000000000 0 [] []
    Fetches s .nop ∧ step s = .next (after s) ∧ s.cfg.ccSource Instr.nop.op = none
      ∧ Instr.nop.op ∉ [Op.str, .push, .stsp, .stfp, .stap, .st, .sti]
      ∧ (after (place 0x3000000000000000 0 [] [])).trapped = true :=
  ⟨fetches_place _ _ (by decide +kernel) (by decide +kernel) (by decide +kernel),
    step_after _ (by decide +kernel), by decide, by decide, by decide +kernel⟩
/-- ParametersStayAndDiagnosticSticks. -/
theorem witness_diagnostic :
    let s := { place 0x21 0 [] [] with illegalSeen := true }
    step s = .next (after s) ∧ s.illegalSeen = true :=
  ⟨step_after _ (by decide +kernel), rfl⟩
/-- EveryStepKeepsTheInvariant: a state with two listed cells that is not right after reset. -/
theorem witness_invariant :
    let s := place 0x2E00000000000000 0 [(14, 1000)] [(7, 9)]
    s.Inv ∧ step s = .next (after s) := by
  refine ⟨⟨⟨?_, ?_⟩, ?_, ?_⟩, step_after _ ?_⟩ <;> decide +kernel
/-- ResetHasTheInvariant. -/
theorem witness_reset_invariant :
    flagsOk Config.default = true ∧ Memory.wf [(0, 1), (4095, 2)]
      ∧ ∀ x ∈ ([(0, 1), (4095, 2)] : Memory), x.1 < Config.default.memCells := by decide
/-- ResetValues. -/
theorem witness_reset_values :
    State.reset.cfg.AtDefaults
      ∧ (let i : CcuInput := ⟨true, true, true, 0, 2, CC.none⟩
         i.rst = true ∧ i.ccWe = true ∧ ccuNew Config.default i = ccP
          ∧ ccuNext Config.default ccN i = CC.none) := by decide

end Sys2Proof.Tests
end

section
/-! The second operand of a decoded instruction: which form the operand select `Config.bSel` gives it,
and what that select is where `immf` chooses and where the payload column fixes the form. -/

namespace Sys2Proof

/-! ### The default tables -/

/-- A parameter choice with the default `USES` gives every opcode its row of R105. -/
theorem Config.usesOf_eq_defaultUses {c : Config} (h : c.uses = Config.defaultUses) (op : Op) :
    c.usesOf op = op.defaultUses := by
  rw [Config.usesOf, h]
  cases op <;> rfl

/-- Every opcode of the default `IMM_HONOURED` has the payload `B` (R105, R106). -/
theorem payload_eq_byFlag_of_mem_defaultImmHonoured :
    ∀ op ∈ Config.defaultImmHonoured, op.defaultUses.payload = .byFlag := by decide

/-- The floating-point opcodes with two sources have the payload `sr2` and no choice (R105, R106). -/
theorem payload_eq_sr2_of_float : ∀ op ∈ [Op.addF, .subF, .mulF, .divF, .cmpF],
    op ∉ Config.defaultImmHonoured ∧ op.defaultUses.payload = .sr2 := by decide

/-- The opcodes with an offset have the payload `I` and no choice (R105, R106). -/
theorem payload_eq_imm_of_offset :
    ∀ op ∈ [Op.ldsp, .stsp, .ldfp, .stfp, .ldap, .stap, .jmp, .ld, .st, .ldi, .sti],
      op ∉ Config.defaultImmHonoured ∧ op.defaultUses.payload = .imm := by decide

/-! ### The operand select -/

theorem Config.flagChooses_iff (c : Config) (op : Op) :
    c.flagChooses op = true ↔ (c.usesOf op).payload ≠ .unused ∧ op ∈ c.immHonoured := by
  simp [Config.flagChooses]

/-- Outside `IMM_HONOURED` `immf` chooses nothing (R93). -/
theorem Config.not_flagChooses {c : Config} {op : Op} (h : op ∉ c.immHonoured) :
    ¬c.flagChooses op = true :=
  fun hc => h ((c.flagChooses_iff op).mp hc).2

/-- Where `immf` chooses, the select is the immediate iff `immf` is 1 (R93). -/
theorem Config.bSel_of_flagChooses {c : Config} {op : Op} (h : c.flagChooses op = true) (b : Bool) :
    c.bSel op b = if b then .imm else .sr2 := by
  rw [Config.bSel, if_pos h]

/-- An opcode outside `IMM_HONOURED` with the payload `S` selects the register, whatever `immf`. -/
theorem Config.bSel_eq_sr2 {c : Config} {op : Op} (hm : op ∉ c.immHonoured)
    (hp : (c.usesOf op).payload = .sr2) (b : Bool) : c.bSel op b = .sr2 := by
  rw [Config.bSel, if_neg (Config.not_flagChooses hm), hp]

/-- An opcode outside `IMM_HONOURED` with the payload `I` selects the immediate, whatever `immf`. -/
theorem Config.bSel_eq_imm {c : Config} {op : Op} (hm : op ∉ c.immHonoured)
    (hp : (c.usesOf op).payload = .imm) (b : Bool) : c.bSel op b = .imm := by
  rw [Config.bSel, if_neg (Config.not_flagChooses hm), hp]

/-! ### The operand of the used fields -/

theorem Fields.operand_used_of_imm {f : Fields} {c : Config} {op : Op}
    (h : c.bSel op f.immf = .imm) : (f.used c op).operand = .imm f.imm := by
  simp [Fields.operand, Fields.used, h]

theorem Fields.operand_used_of_sr2 {f : Fields} {c : Config} {op : Op}
    (h : c.bSel op f.immf = .sr2) : (f.used c op).operand = .reg f.sr2 := by
  simp [Fields.operand, Fields.used, h]

/-- Where `immf` chooses, the second operand is the immediate iff `immf` is 1 (R92, R93). -/
theorem Fields.operand_used_of_flagChooses {c : Config} {op : Op} (h : c.flagChooses op = true)
    (f : Fields) : (f.used c op).operand = if f.immf then .imm f.imm else .reg f.sr2 := by
  have hsel := Config.bSel_of_flagChooses h f.immf
  split
  case isTrue hi => exact Fields.operand_used_of_imm (by rw [hsel, if_pos hi])
  case isFalse hi => exact Fields.operand_used_of_sr2 (by rw [hsel, if_neg hi])

/-! ### The value of an operand -/

@[simp] theorem Machine.State.operand_reg (s : Machine.State) (r : Reg) :
    s.operand (.reg r) = s.reg r := rfl

/-- Sign-extension keeps the signed value (R12, R90). -/
@[simp] theorem Machine.toInt_immX (v : Imm) : (Machine.immX v).toInt = v.toInt :=
  BitVec.toInt_signExtend_of_le (by decide)

/-- An immediate operand has the signed value of its payload (R12, R90). -/
@[simp] theorem Machine.State.toInt_operand_imm (s : Machine.State) (v : Imm) :
    (s.operand (.imm v)).toInt = v.toInt :=
  Machine.toInt_immX v

/-- Settles O17: each form follows from the operand select of its opcode's row. -/
theorem secondOperandForms : Obligations.SecondOperandForms := by
  refine ⟨Machine.State.operand_reg, Machine.State.toInt_operand_imm, ?chosen, ?defaults⟩
  case chosen =>
    intro c w op hm hp
    exact Fields.operand_used_of_flagChooses ((c.flagChooses_iff op).mpr ⟨hp, hm⟩) _
  case defaults =>
    rintro c w ⟨-, huses, himm, -⟩
    have hrow := Config.usesOf_eq_defaultUses huses
    refine ⟨fun op hop => ?honoured, fun op hop => ?float, fun op hop => ?offset⟩
    case honoured =>
      have hp : (c.usesOf op).payload ≠ .unused := by
        simp [hrow, payload_eq_byFlag_of_mem_defaultImmHonoured op hop]
      exact Fields.operand_used_of_flagChooses ((c.flagChooses_iff op).mpr ⟨hp, himm ▸ hop⟩) _
    case float =>
      obtain ⟨hm, hp⟩ := payload_eq_sr2_of_float op hop
      exact Fields.operand_used_of_sr2 (Config.bSel_eq_sr2 (himm ▸ hm) (hrow op ▸ hp) _)
    case offset =>
      obtain ⟨hm, hp⟩ := payload_eq_imm_of_offset op hop
      exact Fields.operand_used_of_imm (Config.bSel_eq_imm (himm ▸ hm) (hrow op ▸ hp) _)

end Sys2Proof
end

section
/-! What one step can do, said once (R25, R38): the four ways a step answers a next state, and with
them the statements about a fetch outside memory and about the terminal run states. -/

namespace Sys2Proof.Machine

open Sys2Proof.Claims

/-! ### The equations of the step -/

/-- A HALTED machine stays as it is (R346). -/
theorem step_of_halted {s : State} (h : s.runState = .halted) : step s = .next s := by
  simp [step, h]

/-- A FAULTED machine answers the trap that ended its run (R413). -/
theorem step_of_faulted {s : State} {c : TrapCause} {info : Cell} (h : s.runState = .faulted c info) :
    step s = .fault (.fatalTrap c info) := by
  simp [step, h]

/-- A fetch outside memory traps, and the counter is not advanced (R25, R402, R412). -/
theorem step_of_fetch_eq_none {s : State} (hr : s.runState = .running) (hf : s.fetch = none) :
    step s = .next (s.takeTrap .memOutOfRange s.pc) := by
  simp [step, hr, stepRunning, hf]

/-- An unassigned opcode is skipped or traps, the counter advanced (R110, R405). -/
theorem step_of_decode_eq_error {s : State} {w : Word} {r : DecodeReject}
    (hr : s.runState = .running) (hf : s.fetch = some w) (hd : decode s.cfg w = .error r) :
    step s = .next (s.advance.illegal w) := by
  simp [step, hr, stepRunning, hf, hd]

/-- A fetched instruction has its meaning in the state with the counter advanced (R25). -/
theorem step_of_fetches {s : State} {i : Instr} (h : Fetches s i) : step s = exec i s.advance := by
  obtain ⟨hr, w, hf, hd⟩ := h
  simp [step, hr, stepRunning, hf, hd]

/-- The inversion of the step: a next state comes from a HALTED machine, from a fetch outside memory,
from an unassigned opcode or from the meaning of the fetched instruction. -/
theorem step_cases {s t : State} (h : step s = .next t) :
    (s.runState = .halted ∧ t = s)
      ∨ (s.runState = .running ∧ s.fetch = none ∧ t = s.takeTrap .memOutOfRange s.pc)
      ∨ (∃ w r, s.runState = .running ∧ s.fetch = some w ∧ decode s.cfg w = .error r
          ∧ t = s.advance.illegal w)
      ∨ ∃ i, Fetches s i ∧ exec i s.advance = .next t := by
  cases hr : s.runState with
  | halted =>
    rw [step_of_halted hr] at h
    cases h
    exact .inl ⟨rfl, rfl⟩
  | faulted c info =>
    rw [step_of_faulted hr] at h
    cases h
  | running =>
    cases hf : s.fetch with
    | none =>
      rw [step_of_fetch_eq_none hr hf] at h
      cases h
      exact .inr (.inl ⟨rfl, rfl, rfl⟩)
    | some w =>
      cases hd : decode s.cfg w with
      | error r =>
        rw [step_of_decode_eq_error hr hf hd] at h
        cases h
        exact .inr (.inr (.inl ⟨w, r, rfl, rfl, hd, rfl⟩))
      | ok i =>
        have hi : Fetches s i := ⟨hr, w, hf, hd⟩
        exact .inr (.inr (.inr ⟨i, hi, step_of_fetches hi ▸ h⟩))

/-! ### The fetch -/

/-- The fetch fails iff the counter is outside memory (R25, R402). -/
theorem State.fetch_eq_none_iff (s : State) : s.fetch = none ↔ s.cfg.memCells ≤ s.pc.toNat := by
  simp [State.fetch, State.inMem]

/-- A word placed at a counter inside memory is what the next step fetches. -/
theorem State.fetch_withFetchWord {s : State} (h : s.pc.toNat < s.cfg.memCells) (w : Word) :
    (s.withFetchWord 64 w.toNat).fetch = some w := by
  simp [State.fetch, State.withFetchWord, State.inMem, h, Nat.mod_eq_of_lt w.isLt]

/-- Settles O49: the fetch fails, and the trap changes the run state alone. -/
theorem fetchOutsideMemoryTraps : Obligations.FetchOutsideMemoryTraps := by
  intro s hr hpc
  exact step_of_fetch_eq_none hr (s.fetch_eq_none_iff.mpr hpc)

/-! ### Terminal run states -/

/-- A machine whose step answers the same state is there after any number of steps. -/
theorem run_of_step_eq_next_self {M : Host.Core} {s : M.State} (h : M.step s = .next s) (k : Nat) :
    M.run k s = .next s := by
  induction k with
  | zero => rfl
  | succ k ih =>
    rw [Host.Core.run, h]
    exact ih

/-- A run of at least one step ends with a fault of the first. -/
theorem run_succ_of_step_eq_fault {M : Host.Core} {s : M.State} {r : M.Fault}
    (h : M.step s = .fault r) (k : Nat) : M.run (k + 1) s = .fault r := by
  rw [Host.Core.run, h]

/-- Settles O50: a HALTED machine's step answers the same state, a FAULTED machine's the fault. -/
theorem terminalStatesMakeNoStep : Obligations.TerminalStatesMakeNoStep :=
  ⟨fun _ k h => run_of_step_eq_next_self (M := core) (step_of_halted h) k,
    fun _ k _ _ h => run_succ_of_step_eq_fault (M := core) (step_of_faulted h) k⟩

end Sys2Proof.Machine
end

section
/-! What an instruction can do, said once: every next state that `exec` answers is one of the changes
that `Effect` lists. Facts about all instructions are then facts about these changes. -/

namespace Sys2Proof.Machine

open Sys2Proof.Claims

/-- The store-like opcodes. -/
def storeOps : List Op := [.str, .push, .stsp, .stfp, .stap, .st, .sti]

/-- The opcodes that access memory. -/
def memoryOps : List Op :=
  [.ldr, .str, .push, .pop, .ldsp, .stsp, .ldfp, .stfp, .ldap, .stap, .ld, .st, .ldi, .sti]

theorem mem_memoryOps_of_mem_storeOps : ∀ op ∈ storeOps, op ∈ memoryOps := by decide

/-- The fatal traps an instruction can raise in the state that the fetch step left, each with its
condition and its info (R401 to R408). -/
inductive Raises (s : State) : Instr → TrapCause → Cell → Prop
  | memOutOfRange {i : Instr} (hi : i.op ∈ memoryOps) {a : Cell} (ha : s.inMem a = false) :
      Raises s i .memOutOfRange a
  | divideByZero {rd ra : Reg} {b : Operand} (hb : s.operand b = 0#64) :
      Raises s (.divI rd ra b) .divideByZero s.instrAddr
  | divideOverflow {rd ra : Reg} {b : Operand} (ha : s.reg ra = 0x8000000000000000#64)
      (hb : s.operand b = 0xFFFFFFFFFFFFFFFF#64) :
      Raises s (.divI rd ra b) .divideOverflow s.instrAddr
  | stackUnderflow {rd : Reg} (hsp : s.reg Reg.sp = 0#64) :
      Raises s (.pop rd) .stackUnderflow s.instrAddr
  | registerOutOfRange {i : Instr} (hi : i.op ∈ [Op.ldap, .stap]) (hap : ¬s.cfg.apReg < 16) :
      Raises s i .registerOutOfRange (BitVec.ofNat 64 s.cfg.apReg)
  | integerOverflow {i : Instr} {v : Int} (hv : exactResult s i = some v) (hfits : fits64 v = false)
      (hpolicy : s.cfg.intOverflow = .trap) : Raises s i .integerOverflow s.instrAddr

/-- The next states that the meaning of an instruction can answer in the state that the fetch step
left: a fatal trap, the write of a result or of a comparison, one stored cell, or what the
instructions with no such result do. The value of a result is left to the instruction's own rule. -/
inductive Effect (s : State) : Instr → State → Prop
  | trap {i : Instr} {c : TrapCause} {info : Cell} (hr : Raises s i c info) :
      Effect s i (s.takeTrap c info)
  | result {i : Instr} {rd : Reg} (hrd : resultReg i = some rd) (r : Cell) :
      Effect s i (s.writeResult i.op rd r)
  | drawnResult {i : Instr} {rd : Reg} (hrd : resultReg i = some rd) (r : Cell) :
      Effect s i (s.drawn.writeResult i.op rd r)
  | compare {i : Instr} {rd : Reg} (hrd : resultReg i = some rd) (req : CC) (o : CmpOrder) :
      Effect s i (s.writeCompare i.op req rd o)
  | store {i : Instr} (hi : i.op ∈ storeOps) {a : Cell} (ha : s.inMem a = true) (v : Cell) :
      Effect s i (s.setCell a.toNat v)
  | push (rs : Reg) (ha : s.inMem s.pushAddr = true) (v : Cell) :
      Effect s (.push rs) ((s.setReg Reg.sp s.pushAddr).setCell s.pushAddr.toNat v)
  | pop (rd : Reg) (v : Cell) : Effect s (.pop rd) (s.popWith rd v)
  | jumpTaken {req : CC} (b : Operand) (hm : ccMatch req s.cc = true) :
      Effect s (.jmp req b) { s with pc := s.pcRelAddr b }
  | jumpNotTaken {req : CC} (b : Operand) (hm : ccMatch req s.cc = false) : Effect s (.jmp req b) s
  | call (ra : Reg) :
      Effect s (.call ra) { s.setReg Reg.lr s.pc with pc := (s.setReg Reg.lr s.pc).reg ra }
  | ret : Effect s .ret { s with pc := s.reg Reg.lr }
  | putByte (ra : Reg) : Effect s (.putc ra) (s.putByte ((s.reg ra).extractLsb' 0 8))
  | gotByte (rd : Reg) {b : Byte} {rest : List Byte} (hin : s.input = b :: rest) :
      Effect s (.getc rd) ((s.gotByte b rest).writeResult .getc rd (b.setWidth 64))
  | waitInput (rd : Reg) (hin : s.input = []) : Effect s (.getc rd) s.waitInput
  | nop : Effect s .nop s
  | halt : Effect s .halt { s with runState := .halted }

/-! ### The effects of the shared operations -/

section
variable {s : State} {i : Instr} {rd : Reg}

theorem Effect.of_writeInt (hrd : resultReg i = some rd) {v : Int} (hv : exactResult s i = some v) :
    Effect s i (s.writeInt i.op rd v) := by
  obtain ⟨hpolicy, hfits, h⟩ | ⟨-, h⟩ := s.writeInt_cases i.op rd v
  · exact h ▸ .trap (.integerOverflow hv hfits hpolicy)
  · exact h ▸ .result hrd _

theorem Effect.of_divide (ra : Reg) (b : Operand) :
    Effect s (.divI rd ra b) (s.divide rd (s.reg ra) (s.operand b)) := by
  obtain ⟨hb, h⟩ | ⟨-, ha, hb, h⟩ | ⟨-, -, h⟩ := s.divide_cases rd (s.reg ra) (s.operand b)
  · exact h ▸ .trap (.divideByZero hb)
  · exact h ▸ .trap (.divideOverflow ha hb)
  · exact h ▸ .result rfl _

theorem Effect.of_writeFp (hrd : resultReg i = some rd) (r : Option Cell) :
    Effect s i (s.writeFp i.op rd r) := by
  obtain ⟨v, -, h⟩ | ⟨-, h⟩ := s.writeFp_cases i.op rd r
  · exact h ▸ .result hrd v
  · exact h ▸ .drawnResult hrd _

theorem Effect.of_writeFtoi (ra : Reg) (r : Option Cell) :
    Effect s (.ftoi rd ra) (s.writeFtoi rd r) := by
  obtain ⟨v, -, h⟩ | ⟨-, h⟩ := s.writeFtoi_cases rd r
  · exact h ▸ .result rfl v
  · exact h ▸ .drawnResult rfl _

theorem Effect.of_withLoad (hi : i.op ∈ memoryOps) (a : Cell) {k : Cell → State}
    (hk : ∀ v, Effect s i (k v)) : Effect s i (s.withLoad a k) := by
  obtain ⟨-, h⟩ | ⟨ha, h⟩ := s.withLoad_cases a k
  · exact h ▸ hk _
  · exact h ▸ .trap (.memOutOfRange hi ha)

theorem Effect.of_store (hi : i.op ∈ storeOps) (a v : Cell) : Effect s i (s.store a v) := by
  obtain ⟨ha, h⟩ | ⟨ha, h⟩ := s.store_cases a v
  · exact h ▸ .store hi ha v
  · exact h ▸ .trap (.memOutOfRange (mem_memoryOps_of_mem_storeOps _ hi) ha)

theorem Effect.of_withApAddr (hi : i.op ∈ [Op.ldap, .stap]) (b : Operand) {k : Cell → State}
    (hk : ∀ a, Effect s i (k a)) : Effect s i (s.withApAddr b k) := by
  obtain ⟨-, h⟩ | ⟨hap, h⟩ := s.withApAddr_cases b k
  · exact h ▸ hk _
  · exact h ▸ .trap (.registerOutOfRange hi hap)

theorem Effect.of_pushed (rs : Reg) : Effect s (.push rs) (s.pushed rs) := by
  obtain ⟨ha, h⟩ | ⟨ha, h⟩ := s.pushed_cases rs
  · exact h ▸ .push rs ha _
  · exact h ▸ .trap (.memOutOfRange (by simp [Instr.op, memoryOps]) ha)

end

/-! ### The effect of every instruction -/

theorem Effect.of_execPop {s t : State} {rd : Reg} (h : execPop rd s = .next t) :
    Effect s (.pop rd) t := by
  cases h
  split
  case isTrue hsp => exact .trap (.stackUnderflow hsp)
  case isFalse => exact .of_withLoad (by simp [Instr.op, memoryOps]) _ (.pop rd)

theorem Effect.of_execJmp {s t : State} {req : CC} {b : Operand} (h : execJmp req b s = .next t) :
    Effect s (.jmp req b) t := by
  cases h
  split
  case isTrue hm => exact .jumpTaken b hm
  case isFalse hm => exact .jumpNotTaken b (Bool.eq_false_of_not_eq_true hm)

theorem Effect.of_execGetc {s t : State} {rd : Reg} (h : execGetc rd s = .next t) :
    Effect s (.getc rd) t := by
  unfold execGetc at h
  cases hin : s.input with
  | cons b rest =>
    rw [hin] at h
    cases h
    exact .gotByte rd hin
  | nil =>
    rw [hin] at h
    dsimp only at h
    split at h
    · cases h
    · cases h
      exact .waitInput rd hin

/-- The inversion of the dispatch: what every instruction can do is in `Effect`. -/
theorem exec_effect {i : Instr} {s t : State} (h : exec i s = .next t) : Effect s i t := by
  cases i with
  | addI | subI | mulI => cases h; exact .of_writeInt rfl rfl
  | negI => cases h; exact .of_writeInt rfl (by simp [exactResult])
  | divI => cases h; exact .of_divide ..
  | addF | subF | mulF | divF => cases h; exact .of_writeFp rfl _
  | negF | and | or | xor | not | bnot | shl | shr | itof => cases h; exact .result rfl _
  | cmpI | cmpF => cases h; exact .compare rfl ..
  | ftoi => cases h; exact .of_writeFtoi ..
  | ldr | ldsp | ldfp | ld =>
    cases h
    exact .of_withLoad (by simp [Instr.op, memoryOps]) _ (.result rfl)
  | ldi rd b =>
    cases h
    have hi : (Instr.ldi rd b).op ∈ memoryOps := by simp [Instr.op, memoryOps]
    exact .of_withLoad hi _ fun _ => .of_withLoad hi _ (.result rfl)
  | ldap =>
    cases h
    exact .of_withApAddr (by simp [Instr.op]) _ fun _ =>
      .of_withLoad (by simp [Instr.op, memoryOps]) _ (.result rfl)
  | str | stsp | stfp | st => cases h; exact .of_store (by simp [Instr.op, storeOps]) ..
  | sti rs b =>
    cases h
    have hi : (Instr.sti rs b).op ∈ storeOps := by simp [Instr.op, storeOps]
    exact .of_withLoad (mem_memoryOps_of_mem_storeOps _ hi) _ fun _ => .of_store hi ..
  | stap =>
    cases h
    exact .of_withApAddr (by simp [Instr.op]) _ fun _ => .of_store (by simp [Instr.op, storeOps]) ..
  | push => cases h; exact .of_pushed _
  | pop => exact .of_execPop h
  | jmp => exact .of_execJmp h
  | call => cases h; exact .call _
  | ret => cases h; exact .ret
  | putc => cases h; exact .putByte _
  | getc => exact .of_execGetc h
  | nop => cases h; exact .nop
  | halt => cases h; exact .halt

/-! ### What every effect keeps -/

section
variable {s t : State} {i : Instr}

/-- No instruction changes the parameters (R7). -/
theorem Effect.cfg_eq (h : Effect s i t) : t.cfg = s.cfg := by
  cases h <;> rfl

/-- No instruction changes the diagnostic (R38). -/
theorem Effect.illegalSeen_eq (h : Effect s i t) : t.illegalSeen = s.illegalSeen := by
  cases h <;> rfl

/-- An instruction leaves memory or writes one cell inside its bounds (R55). -/
theorem Effect.mem_cases (h : Effect s i t) :
    t.mem = s.mem ∨ ∃ a v, s.inMem a = true ∧ t.mem = Memory.write s.mem a.toNat v := by
  cases h with
  | store hi ha v => exact .inr ⟨_, v, ha, rfl⟩
  | push rs ha v => exact .inr ⟨_, v, ha, rfl⟩
  | _ => exact .inl rfl

/-- An instruction leaves the flags, or they are as `CC_WRITERS` has them for its opcode (R107). -/
theorem Effect.cc_cases (h : Effect s i t) : t.cc = s.cc ∨ ∃ r o, t.cc = s.newCC i.op r o := by
  cases h with
  | result | drawnResult | compare | pop | gotByte => exact .inr ⟨_, _, rfl⟩
  | _ => exact .inl rfl

/-- Only JMP, CALL, RET and a GETC that waits move the counter from `npc` (R25, R26). -/
theorem Effect.pc_eq (h : Effect s i t) (hop : i.op ∉ [Op.jmp, .call, .ret])
    (hin : ∀ rd, i = .getc rd → s.input ≠ []) : t.pc = s.pc := by
  cases h with
  | jumpTaken | jumpNotTaken | call | ret => exact absurd (by simp [Instr.op]) hop
  | waitInput rd hnil => exact absurd hnil (hin rd rfl)
  | _ => rfl

end

end Sys2Proof.Machine
end

section
/-! The invariant of the machine: memory in canonical form and inside its bounds, and at most one flag
set (R32, R50, R57). Each change of an instruction keeps it, hence each step; reset has it. -/

namespace Sys2Proof.Machine

/-! ### The flags -/

/-- The raw comparison sets at most one flag where `UNORDERED_CC` does (R32, R152). -/
theorem ccOfOrd_atMostOne {c : Config} (h : flagsOk c = true) (o : CmpOrder) :
    (ccOfOrd c o).atMostOne = true := by
  obtain ⟨hun, -⟩ := Bool.and_eq_true_iff.mp h
  cases o with
  | unordered => exact hun
  | _ => rfl

/-- The flags an opcode leaves set at most one, whatever `CC_WRITERS` has for it (R32). -/
theorem State.newCC_atMostOne {s : State} (hf : flagsOk s.cfg = true) (hcc : s.cc.atMostOne = true)
    (op : Op) (r : Cell) (o : CmpOrder) : (s.newCC op r o).atMostOne = true := by
  obtain ⟨-, h⟩ | ⟨-, h⟩ | ⟨-, h⟩ := s.newCC_cases op r o <;> rw [h]
  · exact hcc
  · exact ccOfInt_atMostOne r
  · exact ccOfOrd_atMostOne hf o

/-! ### Memory -/

/-- A write inside the bounds keeps memory canonical and inside its bounds (R50, R57). -/
theorem State.memOk_setCell {s : State} (h : s.memOk) {a : Nat} (ha : a < s.cfg.memCells) (v : Cell) :
    (s.setCell a v).memOk := by
  obtain ⟨hwf, hbound⟩ := h
  refine ⟨Memory.write_wf _ a v hwf, fun x hx => ?_⟩
  rcases Memory.mem_write s.mem a v x hx with rfl | hx
  · exact ha
  · exact hbound x hx

/-! ### Every step -/

/-- A state with the parameters, the memory and the flags of one with the invariant has it. -/
theorem State.Inv.of_eq {s t : State} (h : s.Inv) (hcfg : t.cfg = s.cfg) (hmem : t.mem = s.mem)
    (hcc : t.cc = s.cc) : t.Inv := by
  unfold State.Inv State.memOk
  rw [hcfg, hmem, hcc]
  exact h

/-- Every change of an instruction keeps the invariant. -/
theorem Effect.inv {s t : State} {i : Instr} (h : Effect s i t) (hs : s.Inv) : t.Inv := by
  obtain ⟨hmem, hflags, hcc⟩ := hs
  refine ⟨?mem, h.cfg_eq ▸ hflags, ?cc⟩
  case mem =>
    unfold State.memOk
    rw [h.cfg_eq]
    obtain ht | ⟨a, v, ha, ht⟩ := h.mem_cases <;> rw [ht]
    · exact hmem
    · exact State.memOk_setCell hmem (of_decide_eq_true ha) v
  case cc =>
    obtain ht | ⟨r, o, ht⟩ := h.cc_cases <;> rw [ht]
    · exact hcc
    · exact State.newCC_atMostOne hflags hcc i.op r o

/-- An unassigned opcode sets the diagnostic or takes the trap (R110, R405). -/
theorem State.illegal_cases (s : State) (w : Word) :
    (s.cfg.illegalPolicy = .skip ∧ s.illegal w = { s with illegalSeen := true })
      ∨ (s.cfg.illegalPolicy = .trap ∧ s.illegal w = s.takeTrap .illegalOpcode w) := by
  unfold State.illegal
  cases s.cfg.illegalPolicy with
  | skip => exact .inl ⟨rfl, rfl⟩
  | trap => exact .inr ⟨rfl, rfl⟩

/-- Settles O58: by the four ways a step answers, the fetched instruction by its effect. -/
theorem everyStepKeepsTheInvariant : Obligations.EveryStepKeepsTheInvariant := by
  intro s t hs h
  have hadv : s.advance.Inv := hs.of_eq rfl rfl rfl
  obtain ⟨-, rfl⟩ | ⟨-, -, rfl⟩ | ⟨w, r, -, -, -, rfl⟩ | ⟨i, -, hi⟩ := step_cases h
  · exact hs
  · exact hs.of_eq rfl rfl rfl
  · obtain ⟨-, ht⟩ | ⟨-, ht⟩ := s.advance.illegal_cases w <;> rw [ht]
    · exact hadv.of_eq rfl rfl rfl
    · exact hadv.of_eq rfl rfl rfl
  · exact (exec_effect hi).inv hadv

/-! ### Reset -/

/-- Reset keeps the invariant: the flags become `CC_RESET` (R33, R440). -/
theorem State.Inv.rst {s : State} (h : s.Inv) : s.rst.Inv := by
  obtain ⟨hmem, hflags, -⟩ := h
  obtain ⟨-, hreset⟩ := Bool.and_eq_true_iff.mp hflags
  exact ⟨hmem, hflags, hreset⟩

/-- A machine at power-on with a canonical memory within bounds has the invariant (R39). -/
theorem State.inv_powerOn {c : Config} (regs : Vector Cell 16) {m : Memory} (hf : flagsOk c = true)
    (hwf : Memory.wf m) (hbound : ∀ x ∈ m, x.1 < c.memCells) : (State.powerOn c regs m).Inv :=
  ⟨⟨hwf, hbound⟩, hf, rfl⟩

/-- Settles O59: every reset state is the reset of a state with the invariant. -/
theorem resetHasTheInvariant : Obligations.ResetHasTheInvariant := by
  refine ⟨?_, fun c regs m hf hwf hbound => (State.inv_powerOn regs hf hwf hbound).rst,
    fun _ => State.Inv.rst⟩
  exact (State.inv_powerOn _ (by decide) reset_mem_wf fun x hx => absurd hx List.not_mem_nil).rst

end Sys2Proof.Machine
end

section
/-! The parameters, the diagnostic and the program counter over a step (R7, R25, R26, R38). -/

namespace Sys2Proof.Machine

/-! ### The parameters and the diagnostic -/

/-- An unassigned opcode leaves the parameters (R7). -/
@[simp] theorem State.illegal_cfg (s : State) (w : Word) : (s.illegal w).cfg = s.cfg := by
  obtain ⟨-, h⟩ | ⟨-, h⟩ := s.illegal_cases w <;> simp [h]

/-- An unassigned opcode leaves the counter, which the fetch step has advanced (R110). -/
@[simp] theorem State.illegal_pc (s : State) (w : Word) : (s.illegal w).pc = s.pc := by
  obtain ⟨-, h⟩ | ⟨-, h⟩ := s.illegal_cases w <;> simp [h]

/-- An unassigned opcode never clears the diagnostic (R38). -/
theorem State.illegalSeen_illegal {s : State} (hs : s.illegalSeen = true) (w : Word) :
    (s.illegal w).illegalSeen = true := by
  obtain ⟨-, h⟩ | ⟨-, h⟩ := s.illegal_cases w
  · rw [h]
  · rw [h]
    exact hs

/-- Settles O57: by the four ways a step answers; an unassigned opcode alone touches the diagnostic. -/
theorem parametersStayAndDiagnosticSticks : Obligations.ParametersStayAndDiagnosticSticks := by
  intro s t h
  obtain ⟨-, rfl⟩ | ⟨-, -, rfl⟩ | ⟨w, r, -, -, -, rfl⟩ | ⟨i, -, hi⟩ := step_cases h
  · exact ⟨rfl, id⟩
  · exact ⟨rfl, id⟩
  · exact ⟨s.advance.illegal_cfg w, fun hs => State.illegalSeen_illegal (s := s.advance) hs w⟩
  · have he := exec_effect hi
    exact ⟨he.cfg_eq, fun hs => he.illegalSeen_eq.trans hs⟩

/-! ### The program counter -/

/-- JMP leaves `npc + I` where a requested flag is set, else `npc` (R290). -/
theorem pc_of_exec_jmp {s t : State} {req : CC} {b : Operand} (h : exec (.jmp req b) s = .next t) :
    t.pc = if ccMatch req s.cc then s.pc + s.operand b else s.pc := by
  cases h
  exact apply_ite State.pc ..

/-- CALL leaves the value of its register, read after R15 is written (R320). -/
theorem pc_of_exec_call {s t : State} {ra : Reg} (h : exec (.call ra) s = .next t) :
    t.pc = if ra = Reg.lr then s.pc else s.reg ra := by
  cases h
  exact s.reg_setReg Reg.lr ra s.pc

/-- RET leaves the value of R15 (R321). -/
theorem pc_of_exec_ret {s t : State} (h : exec .ret s = .next t) : t.pc = s.reg Reg.lr := by
  cases h
  rfl

/-- The fetch step's advance of the counter changes the value of no operand. -/
@[simp] theorem State.operand_advance (s : State) (b : Operand) : s.advance.operand b = s.operand b := by
  cases b <;> rfl

/-- Settles O54: JMP, CALL and RET by their own rules, every other instruction by its effect. -/
theorem counterAfterEachInstruction : Obligations.CounterAfterEachInstruction := by
  refine ⟨fun s t i hf h hin => ?fetched, fun s t w r hr hf hd h => ?unassigned⟩
  case fetched =>
    rw [step_of_fetches hf] at h
    refine ⟨?jmp, ?call, ?ret, fun hop => (exec_effect h).pc_eq hop hin⟩
    case jmp =>
      rintro req b rfl
      simpa using pc_of_exec_jmp h
    case call =>
      rintro ra rfl
      exact pc_of_exec_call h
    case ret =>
      rintro rfl
      exact pc_of_exec_ret h
  case unassigned =>
    rw [step_of_decode_eq_error hr hf hd] at h
    cases h
    exact s.advance.illegal_pc w

end Sys2Proof.Machine
end

section
/-! What the decoder gives is well formed: the row of `USES` lets an instruction see only the fields
that the row uses (R84, R105), and so a term that a word stands for. -/

namespace Sys2Proof

section
variable (c : Config) (op : Op) (f : Fields)

@[simp] theorem namedOk_used : namedOk c op (f.used c op).dr = true := by
  by_cases h : (c.usesOf op).f56 = .unused <;> simp [namedOk, Fields.used, h]

@[simp] theorem firstOk_used : firstOk c op (f.used c op).sr1 = true := by
  cases h : (c.usesOf op).sr1 <;> simp [firstOk, Fields.used, h]

@[simp] theorem reqOk_used : reqOk c op (f.used c op).req = true := by
  cases h : (c.usesOf op).req <;> simp [reqOk, Fields.used, h]

@[simp] theorem sourceOk_used : sourceOk c op ((f.used c op).source (c.usesOf op)) = true := by
  by_cases h : (c.usesOf op).f56 = .read
  · simp [sourceOk, h]
  · cases h1 : (c.usesOf op).sr1 <;> simp [sourceOk, Fields.source, Fields.used, h, h1]

/-- The operand select gives an opcode a form that its row and `IMM_HONOURED` allow (R93, R106). -/
@[simp] theorem operandOk_used : operandOk c op (f.used c op).operand = true := by
  cases hc : c.flagChooses op with
  | true => simp [operandOk, hc]
  | false =>
    cases hp : (c.usesOf op).payload <;>
      simp [operandOk, Fields.operand, Fields.used, Config.bSel, Operand.isImm, hc, hp]

/-- The instruction of an opcode, from the fields that its row lets it see, is well formed. -/
theorem wellFormed_instrOf_used :
    (instrOf (c.usesOf op) op (f.used c op)).wellFormed c = true := by
  cases op <;> simp [instrOf, Instr.wellFormed]

end

/-- Every decoded instruction is well formed (R105, R111). -/
theorem wellFormed_of_decode_eq_ok {c : Config} {w : Word} {i : Instr} (h : decode c w = .ok i) :
    i.wellFormed c = true := by
  unfold decode at h
  split at h
  · cases h
    exact wellFormed_instrOf_used ..
  · cases h

namespace Machine

/-- Settles O47: the step of a fetched instruction is its meaning, and a placed word is fetched. -/
theorem stepRunsTheDecodedInstruction : Obligations.StepRunsTheDecodedInstruction := by
  refine ⟨fun s i hi => ?fetched, fun s w i hr hpc hd => ?placed⟩
  case fetched =>
    refine ⟨?_, step_of_fetches hi⟩
    obtain ⟨-, w, -, hd⟩ := hi
    exact wellFormed_of_decode_eq_ok hd
  case placed => exact step_of_fetches ⟨hr, w, State.fetch_withFetchWord hpc w, hd⟩

end Machine

end Sys2Proof
end

section
/-! The loader's placement (R60, R442): it changes memory alone, it places word `k` at its base plus
`k`, and it leaves every cell outside. -/

namespace Sys2Proof.Machine

/-- The loader changes nothing but memory (R60). -/
theorem State.loadCells_eq (s : State) (base : Nat) (vs : List Cell) :
    s.loadCells base vs = { s with mem := (s.loadCells base vs).mem } := by
  induction vs generalizing s base with
  | nil => rfl
  | cons v vs ih => exact ih (s.setCell base v) (base + 1)

/-- The loader leaves every cell outside the words it places. -/
theorem State.cell_loadCells_of_outside (s : State) {base a : Nat} {vs : List Cell}
    (h : a < base ∨ base + vs.length ≤ a) : (s.loadCells base vs).cell a = s.cell a := by
  induction vs generalizing s base with
  | nil => rfl
  | cons v vs ih =>
    rw [List.length_cons] at h
    calc ((s.setCell base v).loadCells (base + 1) vs).cell a
      _ = (s.setCell base v).cell a := ih _ (by omega)
      _ = s.cell a := s.cell_setCell_ne v (by omega)

/-- The loader places word `k` at its base plus `k`. -/
theorem State.cell_loadCells (s : State) (base : Nat) {vs : List Cell} {k : Nat} {v : Cell}
    (h : vs[k]? = some v) : (s.loadCells base vs).cell (base + k) = v := by
  induction vs generalizing s base k with
  | nil => simp at h
  | cons u vs ih =>
    cases k with
    | zero =>
      obtain rfl : u = v := by simpa using h
      calc ((s.setCell base u).loadCells (base + 1) vs).cell base
        _ = (s.setCell base u).cell base := State.cell_loadCells_of_outside _ (by omega)
        _ = u := s.cell_setCell_same base u
    | succ k =>
      have hk : vs[k]? = some v := by simpa using h
      have hidx : base + (k + 1) = base + 1 + k := by omega
      rw [hidx]
      exact ih (s.setCell base u) (base + 1) hk

/-- The placement of a program changes nothing but memory (R60, R442). -/
theorem State.loadProgram_eq (s : State) (stream pool : List Cell) :
    s.loadProgram stream pool = { s with mem := (s.loadProgram stream pool).mem } := by
  unfold State.loadProgram
  rw [State.loadCells_eq, s.loadCells_eq]

/-- Settles O40: the pool is placed second, so its words stand, and outside it the stream's do. -/
theorem loaderPlacesStreamAndPool : Obligations.LoaderPlacesStreamAndPool := by
  intro s stream pool t
  refine ⟨fun i v hv hi => ?stream, fun k v hv => State.cell_loadCells _ poolBase hv,
    fun a ha hp => ?outside, ?frame⟩
  case stream =>
    have hcode : (s.loadCells codeBase stream).cell (codeBase + i) = v := s.cell_loadCells _ hv
    rw [codeBase, Nat.zero_add] at hcode
    exact (State.cell_loadCells_of_outside _ hi).trans hcode
  case outside =>
    have hcode : (s.loadCells codeBase stream).cell a = s.cell a :=
      s.cell_loadCells_of_outside (.inr (by simpa [codeBase] using ha))
    exact (State.cell_loadCells_of_outside _ hp).trans hcode
  case frame =>
    have ht : t = { s with mem := t.mem } := s.loadProgram_eq stream pool
    rw [ht]
    exact ⟨fun _ => rfl, rfl, rfl, rfl, rfl, rfl, rfl, rfl, rfl, rfl, rfl⟩

end Sys2Proof.Machine
end

section
/-! The argument pointer where `AP_REG` names no register (R23, R265, R406). -/

namespace Sys2Proof.Machine

/-- Where `AP_REG` names no register the rest of the rule does not run (R23, log entry 20). -/
theorem State.withApAddr_of_le {s : State} (h : 16 ≤ s.cfg.apReg) (b : Operand) (k : Cell → State) :
    s.withApAddr b k = s.takeTrap .registerOutOfRange (BitVec.ofNat 64 s.cfg.apReg) := by
  obtain ⟨hlt, -⟩ | ⟨-, htrap⟩ := s.withApAddr_cases b k
  · omega
  · exact htrap

/-- Settles O34: neither LDAP nor STAP comes to its address. -/
theorem misconfiguredArgumentPointerTraps : Obligations.MisconfiguredArgumentPointerTraps :=
  fun _ _ b h => ⟨⟨_, rfl, State.withApAddr_of_le h b _⟩, ⟨_, rfl, State.withApAddr_of_le h b _⟩⟩

end Sys2Proof.Machine
end

section
/-! The accesses to memory (R53 to R56, R65, R83): what a guarded load and store answer on each side of
the bound, the one cell that a store-like instruction writes, and that no other instruction writes any. -/

namespace Sys2Proof.Machine

open Sys2Proof.Claims

/-! ### The guarded accesses -/

/-- A cell index is inside memory iff it is below `MEM_CELLS` (R55). -/
theorem State.inMem_iff (s : State) (a : Cell) : s.inMem a = true ↔ a.toNat < s.cfg.memCells :=
  decide_eq_true_iff

/-- An index at or above `MEM_CELLS` is outside memory (R55). -/
theorem State.inMem_of_le {s : State} {a : Cell} (h : s.cfg.memCells ≤ a.toNat) : s.inMem a = false :=
  decide_eq_false (Nat.not_lt.mpr h)

/-- A load in range goes on with the cell (R55). -/
theorem State.withLoad_of_lt {s : State} {a : Cell} (h : a.toNat < s.cfg.memCells) (k : Cell → State) :
    s.withLoad a k = k (s.cell a.toNat) :=
  if_pos ((s.inMem_iff a).mpr h)

/-- A load out of range traps, and the rest of the rule does not run (R55). -/
theorem State.withLoad_of_le {s : State} {a : Cell} (h : s.cfg.memCells ≤ a.toNat) (k : Cell → State) :
    s.withLoad a k = s.takeTrap .memOutOfRange a := by
  simp [State.withLoad, State.inMem_of_le h]

/-- A store in range writes its cell (R55). -/
theorem State.store_of_lt {s : State} {a : Cell} (h : a.toNat < s.cfg.memCells) (v : Cell) :
    s.store a v = s.setCell a.toNat v :=
  if_pos ((s.inMem_iff a).mpr h)

/-- A store out of range traps (R55). -/
theorem State.store_of_le {s : State} {a : Cell} (h : s.cfg.memCells ≤ a.toNat) (v : Cell) :
    s.store a v = s.takeTrap .memOutOfRange a := by
  simp [State.store, State.inMem_of_le h]

/-- The write of a cell is seen at that cell and nowhere else in the state (R54). -/
theorem State.writesCell_setCell (s : State) (a : Nat) (v : Cell) : WritesCell s (s.setCell a v) a v :=
  ⟨s.cell_setCell_same a v, fun _ hb => s.cell_setCell_ne v hb, fun _ => rfl, rfl, rfl, rfl,
    rfl, rfl, rfl, rfl, rfl, rfl, rfl⟩

/-- Settles O38: each primitive on either side of the bound. -/
theorem memoryPrimitives : Obligations.MemoryPrimitives :=
  ⟨fun _ _ k => ⟨fun h => State.withLoad_of_le h k, fun h => State.withLoad_of_lt h k⟩,
    fun s a v => ⟨fun h => State.store_of_le h v,
      fun h => State.store_of_lt h v ▸ s.writesCell_setCell a.toNat v⟩⟩

/-! ### Only stores change memory -/

/-- An instruction that is not store-like leaves memory (R53). -/
theorem Effect.mem_eq {s t : State} {i : Instr} (h : Effect s i t) (hop : i.op ∉ storeOps) :
    t.mem = s.mem := by
  cases h with
  | store hi => exact absurd hi hop
  | push => exact absurd (by simp [Instr.op, storeOps]) hop
  | _ => rfl

/-- An unassigned opcode leaves memory (R110, R405). -/
@[simp] theorem State.illegal_mem (s : State) (w : Word) : (s.illegal w).mem = s.mem := by
  obtain ⟨-, h⟩ | ⟨-, h⟩ := s.illegal_cases w <;> simp [h]

/-- Settles O56: by the four ways a step answers, the fetched instruction by its effect. -/
theorem onlyStoresChangeMemory : Obligations.OnlyStoresChangeMemory := by
  intro s t h hop
  obtain ⟨-, rfl⟩ | ⟨-, -, rfl⟩ | ⟨w, r, -, -, -, rfl⟩ | ⟨i, hi, hexec⟩ := step_cases h
  · rfl
  · rfl
  · exact s.advance.illegal_mem w
  · exact (exec_effect hexec).mem_eq (hop i hi)

/-! ### The cell that a store-like instruction writes -/

/-- PUSH in range moves R14 and writes the cell above the top of the stack (R263). -/
theorem State.pushed_of_lt {s : State} (h : s.pushAddr.toNat < s.cfg.memCells) (rs : Reg) :
    s.pushed rs = (s.setReg Reg.sp s.pushAddr).setCell s.pushAddr.toNat
      (if rs = Reg.sp then s.pushAddr else s.reg rs) := by
  obtain ⟨-, hpush⟩ | ⟨hout, -⟩ := s.pushed_cases rs
  · exact hpush
  · simp [(s.inMem_iff _).mpr h] at hout

/-- Where `AP_REG` names a register the rule of LDAP or STAP goes on with its address (R265). -/
theorem State.withApAddr_of_lt {s : State} (h : s.cfg.apReg < 16) (b : Operand) (k : Cell → State) :
    s.withApAddr b k = k (s.pointerAddr (apRegister s.cfg) b) :=
  if_pos h

/-- A store-like instruction with its address in range completes: it writes the one cell that `storeOf`
names, and besides memory at most a register, the stack pointer of PUSH (R262 to R271, R302, R304). -/
theorem exec_of_storeOf {s : State} {i : Instr} {a v : Cell} (h : storeOf s i = some (a, v))
    (ha : a.toNat < s.cfg.memCells) :
    ∃ regs, exec i s = .next ({ s with regs := regs }.setCell a.toNat v) := by
  have hcell : s.store a v = s.setCell a.toNat v := State.store_of_lt ha v
  cases i with
  | str | stsp | stfp | st =>
    cases h
    exact ⟨s.regs, congrArg _ hcell⟩
  | push rs =>
    cases h
    exact ⟨_, congrArg _ (State.pushed_of_lt ha rs)⟩
  | stap rs b =>
    obtain ⟨hap, h⟩ := Option.ite_none_right_eq_some.mp h
    cases h
    have haddr := State.withApAddr_of_lt hap b fun p => s.store p (s.reg rs)
    exact ⟨s.regs, congrArg _ (haddr.trans hcell)⟩
  | sti rs b =>
    obtain ⟨hptr, h⟩ := Option.ite_none_right_eq_some.mp h
    cases h
    have hload := State.withLoad_of_lt hptr fun p => s.store p (s.reg rs)
    exact ⟨s.regs, congrArg _ (hload.trans hcell)⟩
  | _ => cases h

/-- A cell written at a counter inside memory is what the next step fetches (R65). -/
theorem State.fetch_setCell_pc {s : State} (h : s.pc.toNat < s.cfg.memCells) (v : Cell) :
    (s.setCell s.pc.toNat v).fetch = some v := by
  simp [State.fetch, s.inMem_iff, h]

/-- Settles O39: the store leaves the counter at the stored cell and the machine RUNNING. -/
theorem storeIsSeenByTheNextFetch : Obligations.StoreIsSeenByTheNextFetch := by
  intro s i v hi hstore hpc
  obtain ⟨regs, hexec⟩ := exec_of_storeOf (s := s.advance) hstore hpc
  have hstep := (step_of_fetches hi).trans hexec
  obtain ⟨hrunning, -⟩ := hi
  exact ⟨_, hstep, rfl, hrunning,
    State.fetch_setCell_pc (s := { s.advance with regs := regs }) hpc v⟩

end Sys2Proof.Machine
end

section
/-! The opcode map and the opcode field (R100 to R102, R110): the numbers that `OPC` assigns, the opcode
that a number selects, and what the decoder answers where it selects one and where it selects none. -/

namespace Sys2Proof

/-! ### The enumeration -/

/-- Every operation code stands in the enumeration (R100). -/
theorem Op.mem_all (o : Op) : o ∈ Op.all := by
  cases o <;> decide

/-- The places in the enumeration are 0 to 41, in order (R100). -/
theorem Op.map_index_all : Op.all.map Op.index = List.range 42 := by decide

theorem Op.index_lt (o : Op) : o.index < 42 := by
  have h : o.index ∈ Op.all.map Op.index := List.mem_map_of_mem o.mem_all
  rwa [Op.map_index_all, List.mem_range] at h

/-- Every place has its operation code (R100). -/
theorem Op.exists_index_eq {n : Nat} (h : n < 42) : ∃ o : Op, o.index = n := by
  rw [← List.mem_range, ← Op.map_index_all] at h
  obtain ⟨o, -, ho⟩ := List.mem_map.mp h
  exact ⟨o, ho⟩

/-- Different operation codes have different places (R100). -/
theorem Op.index_injective : Function.Injective Op.index := by
  have hnd : (Op.all.map Op.index).Nodup := Op.map_index_all ▸ List.nodup_range
  exact fun a b h => List.inj_on_of_nodup_map hnd a.mem_all b.mem_all h

/-! ### The numbers -/

/-- An injective `OPC` gives different operation codes different numbers (R101, D1). -/
theorem Config.codeOf_injective {c : Config} (h : c.opcOk = true) : Function.Injective c.codeOf := by
  obtain ⟨hlen, hnd⟩ : c.opc.length = 42 ∧ c.opc.Nodup := by simpa [Config.opcOk] using h
  have hlt (o : Op) : o.index < c.opc.length := hlen ▸ o.index_lt
  intro a b hab
  rw [Config.codeOf, Config.codeOf, List.getD_eq_getElem _ _ (hlt a),
    List.getD_eq_getElem _ _ (hlt b), hnd.getElem_inj_iff] at hab
  exact Op.index_injective hab

/-- The default number of an operation code is its place (R101). -/
theorem Config.toNat_codeOf {c : Config} (h : c.opc = Config.defaultOpc) (o : Op) :
    (c.codeOf o).toNat = o.index := by
  have hlt := o.index_lt
  have hlen : o.index < Config.defaultOpc.length := hlt
  rw [Config.codeOf, h, List.getD_eq_getElem _ _ hlen]
  simp only [Config.defaultOpc, List.getElem_map, List.getElem_range, BitVec.toNat_ofNat]
  omega

/-- A number selects no opcode iff `OPC` assigns it to none (R102, R142). -/
theorem Config.opOfCode_eq_none_iff (c : Config) (code : BitVec 6) :
    c.opOfCode code = none ↔ ∀ o : Op, c.codeOf o ≠ code := by
  simp [Config.opOfCode, Op.mem_all]

/-- A selected opcode has the number that selects it (R102). -/
theorem Config.codeOf_of_opOfCode_eq_some {c : Config} {code : BitVec 6} {o : Op}
    (h : c.opOfCode code = some o) : c.codeOf o = code := by
  simpa using List.find?_some h

/-- Under an injective `OPC` the number of an operation code selects it (R101, R102). -/
theorem Config.opOfCode_codeOf {c : Config} (h : c.opcOk = true) (o : Op) :
    c.opOfCode (c.codeOf o) = some o := by
  cases ho : c.opOfCode (c.codeOf o) with
  | none => exact absurd rfl ((c.opOfCode_eq_none_iff _).mp ho o)
  | some o' => rw [Config.codeOf_injective h (Config.codeOf_of_opOfCode_eq_some ho)]

/-- By default the unassigned numbers are 42 to 63 (R101, R110). -/
theorem Config.opOfCode_eq_none_iff_le {c : Config} (h : c.opc = Config.defaultOpc) (code : BitVec 6) :
    c.opOfCode code = none ↔ 42 ≤ code.toNat := by
  rw [c.opOfCode_eq_none_iff]
  constructor
  · intro hne
    by_contra hlt
    obtain ⟨o, ho⟩ := Op.exists_index_eq (Nat.lt_of_not_le hlt)
    exact hne o (BitVec.eq_of_toNat_eq ((Config.toNat_codeOf h o).trans ho))
  · rintro hle o rfl
    have hlt := o.index_lt
    rw [Config.toNat_codeOf h] at hle
    omega

/-! ### The decoder's answer -/

theorem decode_of_opOfCode_eq_some {c : Config} {w : Word} {op : Op}
    (h : c.opOfCode (decodeFields w).op = some op) :
    decode c w = .ok (instrOf (c.usesOf op) op ((decodeFields w).used c op)) := by
  simp [decode, h]

theorem decode_of_opOfCode_eq_none {c : Config} {w : Word}
    (h : c.opOfCode (decodeFields w).op = none) :
    decode c w = .error (.unassignedOpcode (decodeFields w).op) := by
  simp [decode, h]

/-- A word is no instruction iff its number is unassigned (R110, R111). -/
theorem exists_decode_eq_error_iff (c : Config) (w : Word) :
    (∃ r, decode c w = .error r) ↔ c.opOfCode (decodeFields w).op = none := by
  cases h : c.opOfCode (decodeFields w).op with
  | none => simp [decode_of_opOfCode_eq_none h]
  | some op => simp [decode_of_opOfCode_eq_some h]

/-- The instruction built for an opcode has that opcode (R102). -/
@[simp] theorem op_instrOf (u : UseRow) (op : Op) (f : Fields) : (instrOf u op f).op = op := by
  cases op <;> rfl

/-- The op field alone selects the operation (R102). -/
theorem map_op_decode_eq_of_op_eq {c : Config} {w w' : Word}
    (h : (decodeFields w).op = (decodeFields w').op) :
    (decode c w).map Instr.op = (decode c w').map Instr.op := by
  cases ho : c.opOfCode (decodeFields w).op with
  | none =>
    rw [decode_of_opOfCode_eq_none ho, decode_of_opOfCode_eq_none (h ▸ ho), h]
  | some op =>
    rw [decode_of_opOfCode_eq_some ho, decode_of_opOfCode_eq_some (h ▸ ho)]
    simp [Except.map]

/-- Settles O2: the default numbers are the places, and the op field alone selects. -/
theorem opcodeNumbersFollowTheTable : Obligations.OpcodeNumbersFollowTheTable :=
  ⟨by decide, fun o => ⟨Config.toNat_codeOf rfl o, o.index_lt⟩, Op.map_index_all,
    fun _ _ _ h => map_op_decode_eq_of_op_eq h⟩

namespace Machine

/-- Settles O48: the step is the advance and then the policy's answer, one case for each policy. -/
theorem unassignedOpcodesAreSkippedOrTrap : Obligations.UnassignedOpcodesAreSkippedOrTrap := by
  refine ⟨fun s w r hr hf hd => ?policy, fun c w hc => ?numbers⟩
  case policy =>
    rw [step_of_decode_eq_error hr hf hd]
    obtain ⟨(hp : s.cfg.illegalPolicy = .skip), ht⟩ | ⟨(hp : s.cfg.illegalPolicy = .trap), ht⟩ :=
      s.advance.illegal_cases w <;> rw [ht, hp]
    · exact ⟨fun _ => rfl, nofun⟩
    · exact ⟨nofun, fun _ => rfl⟩
  case numbers =>
    obtain ⟨hopc, -⟩ := hc
    rw [exists_decode_eq_error_iff, Config.opOfCode_eq_none_iff_le hopc]

end Machine

end Sys2Proof
end

section
/-! The bits of a word that its opcode uses (R84, R105, R112): words that agree on them have the same
used fields. -/

namespace Sys2Proof

/-- Two words agree on the union of two masks iff they agree on each. -/
theorem and_or_eq_and_or_iff (w w' a b : Word) :
    w &&& (a ||| b) = w' &&& (a ||| b) ↔ w &&& a = w' &&& a ∧ w &&& b = w' &&& b := by
  simp only [BitVec.eq_of_getLsbD_eq_iff, BitVec.getLsbD_and, BitVec.getLsbD_or, ← forall_and]
  refine forall₂_congr fun i _ => ?_
  cases a.getLsbD i <;> cases b.getLsbD i <;> simp

/-- Words that agree on a mask agree on every field that the mask covers. -/
theorem bits_eq_of_and_eq {w w' m : Word} {lo n : Nat} (h : w &&& m = w' &&& m)
    (hm : bits m lo n = BitVec.allOnes n) : bits w lo n = bits w' lo n := by
  have hbits (v : Word) : bits (v &&& m) lo n = bits v lo n := by
    rw [bits, BitVec.extractLsb'_and]
    exact (congrArg _ hm).trans BitVec.and_allOnes
  rw [← hbits w, h, hbits]

/-- Words that agree on a mask agree on every bit of it. -/
theorem getLsbD_eq_of_and_eq {w w' m : Word} {i : Nat} (h : w &&& m = w' &&& m)
    (hm : m.getLsbD i = true) : w.getLsbD i = w'.getLsbD i := by
  simpa [hm] using congrArg (·.getLsbD i) h

/-- Where `immf` does not choose, the operand select does not read it (R93). -/
theorem Config.bSel_congr {c : Config} {op : Op} {b b' : Bool} (h : c.flagChooses op = true → b = b') :
    c.bSel op b = c.bSel op b' := by
  cases hc : c.flagChooses op with
  | true => rw [h hc]
  | false => simp [Config.bSel, hc]

/-- The op field is used by every opcode (R105). -/
@[simp] theorem Fields.op_used (f : Fields) (c : Config) (op : Op) : (f.used c op).op = f.op := rfl

/-- Words that agree on the bits that an opcode uses have the same used fields (R84, R105). -/
theorem used_eq_of_and_usedMask_eq {c : Config} {w w' : Word} {op : Op}
    (h : w &&& c.usedMask op (decodeFields w).immf = w' &&& c.usedMask op (decodeFields w).immf) :
    (decodeFields w').used c op = (decodeFields w).used c op := by
  simp only [Config.usedMask, and_or_eq_and_or_iff] at h
  obtain ⟨⟨⟨⟨⟨hop, hdr⟩, himmf⟩, hreq⟩, hpay⟩, hsr1⟩ := h
  have hsel : c.bSel op (decodeFields w').immf = c.bSel op (decodeFields w).immf := by
    refine Config.bSel_congr fun hc => ?_
    rw [if_pos hc] at himmf
    exact (getLsbD_eq_of_and_eq himmf (by decide)).symm
  simp only [Fields.used, hsel, Fields.mk.injEq]
  refine ⟨(bits_eq_of_and_eq hop (by decide)).symm, ite_congr rfl (fun _ => rfl) fun hu => ?dr,
    trivial, ite_congr rfl (fun hu => ?req) fun _ => rfl, ite_congr rfl (fun hs => ?imm) fun _ => rfl,
    ite_congr rfl (fun hs => ?sr2) fun _ => rfl, ite_congr rfl (fun hu => ?sr1) fun _ => rfl⟩
  case dr =>
    rw [if_neg hu] at hdr
    exact (bits_eq_of_and_eq hdr (by decide)).symm
  case req =>
    rw [if_pos hu] at hreq
    have hbit {i : Nat} (hi : (0x000000E000000000#64).getLsbD i = true) :
        w'.getLsbD i = w.getLsbD i := (getLsbD_eq_of_and_eq hreq hi).symm
    exact CC.mk.injEq .. ▸ ⟨hbit (by decide), hbit (by decide), hbit (by decide)⟩
  case imm | sr2 =>
    rw [hs] at hpay
    exact (bits_eq_of_and_eq hpay (by decide)).symm
  case sr1 =>
    rw [if_pos hu] at hsr1
    exact (bits_eq_of_and_eq hsr1 (by decide)).symm

/-- Settles O10: the opcode and the used fields, all that the decoder reads, are the same. -/
theorem unusedFieldsAreIgnored : Obligations.UnusedFieldsAreIgnored := by
  intro c w w' op hop h
  have hused := used_eq_of_and_usedMask_eq h
  have hcode : (decodeFields w').op = (decodeFields w).op := by
    simpa using congrArg Fields.op hused
  rw [decode_of_opOfCode_eq_some hop, decode_of_opOfCode_eq_some (hcode ▸ hop), hused]

end Sys2Proof
end

section
/-! Decoding the canonical word of a well-formed instruction (R113, R135 to R137): the fields of a word
that `Encode` made, the used ones among them, and the instruction built from those. -/

namespace Sys2Proof

/-! ### The fields of an encoded word -/

/-- A field of the word that a shift alone made is what was shifted there (R81). -/
theorem bits_shiftLeft_same {m : Nat} (v : BitVec m) {lo n : Nat} (h : lo + n ≤ 64) :
    bits (v.setWidth 64 <<< lo) lo n = v.setWidth n := by
  ext i hi
  have hlt : lo + i < 64 := by omega
  simp [bits, hlt]

/-- A field is zero where all that was shifted into the word lies below it. -/
theorem bits_shiftLeft_of_le {m off : Nat} (v : BitVec m) {lo n : Nat} (h : off + m ≤ lo) :
    bits (v.setWidth 64 <<< off) lo n = 0#n := by
  ext i hi
  have hm : m ≤ lo + i - off := by omega
  simp [bits, BitVec.getLsbD_of_ge _ _ hm]

/-- A field is zero where all that was shifted into the word lies above it. -/
theorem bits_shiftLeft_of_ge {m off : Nat} (v : BitVec m) {lo n : Nat} (h : lo + n ≤ off) :
    bits (v.setWidth 64 <<< off) lo n = 0#n := by
  ext i hi
  have hlt : lo + i < off := by omega
  simp [bits, hlt]

/-- A field of an OR is the OR of the fields. -/
theorem bits_or (w w' : Word) (lo n : Nat) : bits (w ||| w') lo n = bits w lo n ||| bits w' lo n :=
  BitVec.extractLsb'_or

/-- Every field of the canonical word is the one encoded, but for the payload, where `imm` and `sr2`
share their bits (R137, R145). -/
theorem decodeFields_encodeFields (f : Fields) : decodeFields (encodeFields f) =
    { f with imm := f.imm ||| f.sr2.setWidth 32, sr2 := f.imm.setWidth 4 ||| f.sr2 } := by
  obtain ⟨op, dr, immf, ⟨n, z, p⟩, imm, sr2, sr1⟩ := f
  have hsr1 : sr1.setWidth 64 = sr1.setWidth 64 <<< 0 := by simp
  simp only [decodeFields, Fields.mk.injEq, CC.mk.injEq]
  refine ⟨?op, ?dr, ?immf, ⟨?negative, ?zero, ?positive⟩, ?imm, ?sr2, ?sr1⟩
  case immf | negative | zero | positive => simp [encodeFields, bitOf, BitVec.getLsbD_of_ge]
  all_goals
    rw [encodeFields, hsr1]
    simp [-BitVec.shiftLeft_zero, bits_or, bits_shiftLeft_same, bits_shiftLeft_of_le,
      bits_shiftLeft_of_ge]

@[simp] theorem Fields.dr_encodeFields (f : Fields) : (decodeFields (encodeFields f)).dr = f.dr := by
  rw [decodeFields_encodeFields]
@[simp] theorem Fields.req_encodeFields (f : Fields) : (decodeFields (encodeFields f)).req = f.req := by
  rw [decodeFields_encodeFields]
@[simp] theorem Fields.sr1_encodeFields (f : Fields) : (decodeFields (encodeFields f)).sr1 = f.sr1 := by
  rw [decodeFields_encodeFields]

/-! ### The fields that a well-formed instruction needs -/

section
variable {c : Config} {op : Op} {f : Fields}

theorem Fields.dr_used (h : namedOk c op f.dr = true) : (f.used c op).dr = f.dr := by
  by_cases hu : (c.usesOf op).f56 = .unused
  · have hz : f.dr = 0#4 := by simpa [namedOk, hu] using h
    simp [Fields.used, hz]
  · simp [Fields.used, hu]

theorem Fields.sr1_used (h : firstOk c op f.sr1 = true) : (f.used c op).sr1 = f.sr1 := by
  cases hu : (c.usesOf op).sr1 with
  | true => simp [Fields.used, hu]
  | false =>
    have hz : f.sr1 = 0#4 := by simpa [firstOk, hu] using h
    simp [Fields.used, hz]

theorem Fields.req_used (h : reqOk c op f.req = true) : (f.used c op).req = f.req := by
  cases hu : (c.usesOf op).req with
  | true => simp [Fields.used, hu]
  | false =>
    have hz : f.req = CC.none := by simpa [reqOk, hu] using h
    simp [Fields.used, hz]

/-- The register of PUSH, CALL or PUTC is read back from the place its row names (R105, D4). -/
theorem Fields.source_used (h : sourceOk c op (f.source (c.usesOf op)) = true) :
    (f.used c op).source (c.usesOf op) = f.source (c.usesOf op) := by
  by_cases h3 : (c.usesOf op).f56 = .read
  · simp [Fields.source, Fields.used, h3]
  · refine (if_neg h3).trans ((Fields.sr1_used ?_).trans (if_neg h3).symm)
    simpa [sourceOk, firstOk, Fields.source, h3] using h

/-- The operand select of an allowed operand is its form; where the opcode has no payload the operand
is the register field 0 (R93, R105, R106). -/
theorem Config.bSel_of_operandOk {b : Operand} (h : operandOk c op b = true) :
    c.bSel op b.isImm = (if b.isImm then .imm else .sr2)
      ∨ (c.bSel op b.isImm = .none ∧ b = .reg 0#4) := by
  cases hc : c.flagChooses op with
  | true => exact .inl (Config.bSel_of_flagChooses hc _)
  | false =>
    cases hp : (c.usesOf op).payload with
    | unused =>
      have hb : b = .reg 0#4 := by simpa [operandOk, hc, hp] using h
      exact .inr ⟨by simp [Config.bSel, hc, hp], hb⟩
    | byFlag | sr2 =>
      have hb : b.isImm = false := by simpa [operandOk, hc, hp] using h
      exact .inl (by simp [Config.bSel, hc, hp, hb])
    | imm =>
      have hb : b.isImm = true := by simpa [operandOk, hc, hp] using h
      exact .inl (by simp [Config.bSel, hc, hp, hb])

end

/-! ### The operand and the source register of an encoded word -/

@[simp] theorem Fields.withOperand_op (f : Fields) (b : Operand) : (f.withOperand b).op = f.op := by
  cases b <;> rfl
@[simp] theorem Fields.withOperand_dr (f : Fields) (b : Operand) : (f.withOperand b).dr = f.dr := by
  cases b <;> rfl
@[simp] theorem Fields.withOperand_req (f : Fields) (b : Operand) : (f.withOperand b).req = f.req := by
  cases b <;> rfl
@[simp] theorem Fields.withOperand_sr1 (f : Fields) (b : Operand) : (f.withOperand b).sr1 = f.sr1 := by
  cases b <;> rfl
@[simp] theorem Fields.withSource_op (f : Fields) (u : UseRow) (r : Reg) :
    (f.withSource u r).op = f.op := rfl

/-- The register that `withSource` places is the one that `source` reads. -/
@[simp] theorem Fields.source_withSource (f : Fields) (u : UseRow) (r : Reg) :
    (f.withSource u r).source u = r := by
  by_cases h : u.f56 = .read <;> simp [Fields.source, Fields.withSource, h]

/-- Where the select is none the operand is the register field 0 (R105). -/
theorem Fields.operand_used_of_none {c : Config} {op : Op} {f : Fields}
    (h : c.bSel op f.immf = .none) : (f.used c op).operand = .reg 0#4 := by
  simp [Fields.operand, Fields.used, h]

/-- An allowed operand is read back from the word it is encoded in (R93, R113). -/
theorem Fields.operand_used_encodeFields {c : Config} {op : Op} {b : Operand}
    (h : operandOk c op b = true) (f : Fields) :
    ((decodeFields (encodeFields (f.withOperand b))).used c op).operand = b := by
  rw [decodeFields_encodeFields]
  obtain hsel | ⟨hsel, hb⟩ := Config.bSel_of_operandOk h
  · cases b with
    | reg r => exact (Fields.operand_used_of_sr2 hsel).trans (by simp [Fields.withOperand])
    | imm v => exact (Fields.operand_used_of_imm hsel).trans (by simp [Fields.withOperand])
  · subst hb
    exact Fields.operand_used_of_none hsel

/-- The register of PUSH, CALL or PUTC is read back from the word it is encoded in (R105, R113). -/
theorem Fields.source_used_encodeFields {c : Config} {op : Op} {r : Reg}
    (h : sourceOk c op r = true) (f : Fields) :
    ((decodeFields (encodeFields (f.withSource (c.usesOf op) r))).used c op).source (c.usesOf op)
      = r := by
  have hr : (decodeFields (encodeFields (f.withSource (c.usesOf op) r))).source (c.usesOf op) = r := by
    rw [decodeFields_encodeFields]
    exact f.source_withSource (c.usesOf op) r
  exact (Fields.source_used (hr.symm ▸ h)).trans hr

/-! ### The round trip -/

/-- The canonical fields of an instruction carry its opcode's number (R113). -/
theorem op_fieldsOf (c : Config) (i : Instr) : (fieldsOf c i).op = c.codeOf i.op := by
  cases i <;> simp [fieldsOf, Instr.op]

/-- The instruction built from the used fields of its canonical word is the instruction. -/
theorem instrOf_used_encode {c : Config} {i : Instr} (h : i.wellFormed c = true) :
    instrOf (c.usesOf i.op) i.op ((decodeFields (encode c i)).used c i.op) = i := by
  cases i <;> simp only [Instr.wellFormed, Bool.and_eq_true] at h <;>
    simp [encode, fieldsOf, instrOf, Instr.op, Fields.dr_used, Fields.sr1_used, Fields.req_used,
      Fields.operand_used_encodeFields, Fields.source_used_encodeFields, h]

/-- Decoding the canonical word of a well-formed instruction gives the instruction (R113, R147). -/
theorem decode_encode {c : Config} {i : Instr} (hc : c.opcOk = true) (hi : i.wellFormed c = true) :
    decode c (encode c i) = .ok i := by
  have hcode : (decodeFields (encode c i)).op = c.codeOf i.op := by
    rw [encode, Laws.op_encodeFields, op_fieldsOf]
  have hop : c.opOfCode (decodeFields (encode c i)).op = some i.op :=
    hcode ▸ Config.opOfCode_codeOf hc i.op
  rw [decode_of_opOfCode_eq_some hop, instrOf_used_encode hi]

/-- Settles O9: a decoded instruction is well formed, and so its canonical word decodes to it. -/
theorem decodedInstructionsAreWellFormed : Obligations.DecodedInstructionsAreWellFormed := by
  intro c w i h
  have hi := wellFormed_of_decode_eq_ok h
  exact ⟨hi, fun hc => (decode_encode hc hi).trans h.symm⟩

end Sys2Proof
end

section
/-! The two directions of the codec (R81, R135 to R146): the word of `Encode` as the builder makes it, the
fields read back from it, and the bits that no field has. -/

namespace Sys2Proof

/-! ### Decode after encode -/

/-- Settles O3: the fields of an encoded word, and the shared payload where one part of it is 0. -/
theorem decodeAfterEncodeReturnsTheFields : Obligations.DecodeAfterEncodeReturnsTheFields := by
  intro f
  rw [decodeFields_encodeFields]
  refine ⟨rfl, rfl, rfl, rfl, rfl, rfl, fun hsr2 => ?register, fun himm => ?payload, fun himm => ?zero⟩
  case register => simp [hsr2]
  case payload => simp [BitVec.setWidth_eq_extractLsb', himm]
  case zero => simp [himm]

/-! ### The builder -/

/-- Settles O7: the builder's steps are ORs, and shifting distributes over OR. -/
theorem builderOrdersCommute : Obligations.BuilderOrdersCommute := by
  refine ⟨fun f => ?encode, fun m n o p u v w => ?exchange, fun n o u v w => ?twice⟩
  case encode => simp [encodeFields, orField]
  case exchange => simp only [orField, BitVec.or_assoc, BitVec.or_comm (u.setWidth 64 <<< o)]
  case twice => simp only [orField, BitVec.setWidth_or, BitVec.shiftLeft_or_distrib, BitVec.or_assoc]

/-! ### Encode after decode -/

/-- The mask of the field of `n` bits from bit `lo` on (R81). -/
def maskAt (lo n : Nat) : Word := (BitVec.allOnes n).setWidth 64 <<< lo

/-- A field extracted and put back is the word under the field's mask. -/
theorem shiftLeft_bits (w : Word) (lo n : Nat) :
    (bits w lo n).setWidth 64 <<< lo = w &&& maskAt lo n := by
  ext i hi
  by_cases hlo : i < lo
  · simp [maskAt, hlo]
  · have hadd : lo + (i - lo) = i := by omega
    by_cases hn : i - lo < n <;>
      simp [maskAt, bits, hlo, hadd, hn, BitVec.getLsbD_eq_getElem hi]

/-- A value shifted to a field lies under the field's mask. -/
theorem shiftLeft_and_maskAt {n : Nat} (v : BitVec n) (lo : Nat) :
    v.setWidth 64 <<< lo &&& maskAt lo n = v.setWidth 64 <<< lo := by
  rw [maskAt, ← BitVec.shiftLeft_and_distrib, ← BitVec.setWidth_and, BitVec.and_allOnes]

/-- A flag bit as a field of one bit. -/
theorem bitOf_getLsbD (w : Word) (i : Nat) : bitOf (w.getLsbD i) = bits w i 1 := by
  ext j hj
  obtain rfl : j = 0 := by omega
  simp [bitOf, bits]

/-- Encode after decode keeps the bits of the fields and clears the others (R146). -/
theorem encodeFields_decodeFields (w : Word) : encodeFields (decodeFields w) = w &&& fieldMask := by
  have hmask : fieldMask = maskAt 57 6 ||| maskAt 53 4 ||| maskAt 52 1 ||| maskAt 39 1 ||| maskAt 38 1
      ||| maskAt 37 1 ||| maskAt 4 32 ||| maskAt 4 4 ||| maskAt 0 4 := by decide
  have hsr1 : (bits w 0 4).setWidth 64 = w &&& maskAt 0 4 := by
    simpa using shiftLeft_bits w 0 4
  rw [hmask]
  simp only [encodeFields, decodeFields, bitOf_getLsbD, shiftLeft_bits, hsr1,
    BitVec.and_or_distrib_left]

/-- A word with the ignored bits zero is under the field mask (R81, R138). -/
theorem and_fieldMask_of_and_ignoredMask {w : Word} (h : w &&& ignoredMask = 0#64) :
    w &&& fieldMask = w := by
  have hall : fieldMask ||| ignoredMask = BitVec.allOnes 64 := by decide
  calc w &&& fieldMask = w &&& fieldMask ||| w &&& ignoredMask := by simp [h]
    _ = w &&& (fieldMask ||| ignoredMask) := BitVec.and_or_distrib_left.symm
    _ = w := by rw [hall, BitVec.and_allOnes]

/-- Settles O4: encode after decode is the field mask, hence the identity where no other bit is set. -/
theorem encodeAfterDecodeKeepsTheFieldBits : Obligations.EncodeAfterDecodeKeepsTheFieldBits := by
  have hid (w : Word) (h : w &&& ignoredMask = 0#64) : encodeFields (decodeFields w) = w :=
    (encodeFields_decodeFields w).trans (and_fieldMask_of_and_ignoredMask h)
  refine ⟨encodeFields_decodeFields, fun w w' hw hw' heq => ?_, hid⟩
  rw [← hid w hw, heq, hid w' hw']

/-! ### The ignored bits -/

/-- A value shifted to a field has none of the bits of a mask outside that field. -/
theorem shiftLeft_and_eq_zero {n : Nat} (v : BitVec n) {lo : Nat} {m : Word}
    (h : maskAt lo n &&& m = 0#64) : v.setWidth 64 <<< lo &&& m = 0#64 := by
  rw [← shiftLeft_and_maskAt, BitVec.and_assoc, h, BitVec.and_zero]

/-- Settles O5: no field of the word has an ignored bit. -/
theorem encoderLeavesIgnoredBitsZero : Obligations.EncoderLeavesIgnoredBitsZero := by
  intro f
  have hsr1 : f.sr1.setWidth 64 &&& ignoredMask = 0#64 := by
    simpa using shiftLeft_and_eq_zero f.sr1 (lo := 0) (m := ignoredMask) (by decide)
  simp (disch := decide) only [encodeFields, BitVec.and_or_distrib_right, shiftLeft_and_eq_zero, hsr1,
    BitVec.or_zero]

/-- Words that agree on the field mask have the same fields (R141). -/
theorem decodeFields_eq_of_and_fieldMask_eq {w w' : Word} (h : w &&& fieldMask = w' &&& fieldMask) :
    decodeFields w = decodeFields w' := by
  simp only [decodeFields, Fields.mk.injEq, CC.mk.injEq]
  refine ⟨?op, ?dr, ?immf, ⟨?negative, ?zero, ?positive⟩, ?imm, ?sr2, ?sr1⟩
  case immf | negative | zero | positive => exact getLsbD_eq_of_and_eq h (by decide)
  all_goals exact bits_eq_of_and_eq h (by decide)

/-- Settles O6: the decoder reads a word through its fields alone. -/
theorem ignoredBitsAffectNoOutput : Obligations.IgnoredBitsAffectNoOutput := by
  intro c w w' h
  have hfields := decodeFields_eq_of_and_fieldMask_eq h
  exact ⟨by simp [decOutput, hfields], by simp [decode, hfields]⟩

end Sys2Proof
end

section
/-! Which instructions are well formed under the default tables (R105, R106): all but those whose
operand has a form that its opcode's row does not give it. -/

namespace Sys2Proof

/-! ### The operand forms by default -/

section
variable {c : Config} {op : Op}

/-- Where `immf` chooses, either form is allowed (R93, R106). -/
theorem operandOk_of_flagChooses (h : c.flagChooses op = true) (b : Operand) :
    operandOk c op b = true := by
  simp [operandOk, h]

/-- Outside `IMM_HONOURED` the payload `S` allows no immediate (R105). -/
theorem operandOk_eq_false_iff_of_sr2 (hm : op ∉ c.immHonoured) (hp : (c.usesOf op).payload = .sr2)
    (b : Operand) : operandOk c op b = false ↔ ∃ v, b = .imm v := by
  cases b <;> simp [operandOk, Config.not_flagChooses hm, hp, Operand.isImm]

/-- Outside `IMM_HONOURED` the payload `I` allows no register (R105). -/
theorem operandOk_eq_false_iff_of_imm (hm : op ∉ c.immHonoured) (hp : (c.usesOf op).payload = .imm)
    (b : Operand) : operandOk c op b = false ↔ ∃ r, b = .reg r := by
  cases b <;> simp [operandOk, Config.not_flagChooses hm, hp, Operand.isImm]

/-- By default the opcodes of `IMM_HONOURED` take either form (R106). -/
theorem operandOk_of_mem_defaultImmHonoured (hc : c.AtDefaults)
    (h : op ∈ Config.defaultImmHonoured) (b : Operand) : operandOk c op b = true := by
  obtain ⟨-, huses, himm, -⟩ := hc
  have hp : (c.usesOf op).payload ≠ .unused := by
    simp [Config.usesOf_eq_defaultUses huses, payload_eq_byFlag_of_mem_defaultImmHonoured op h]
  exact operandOk_of_flagChooses ((c.flagChooses_iff op).mpr ⟨hp, himm ▸ h⟩) b

/-- By default a floating-point opcode takes no immediate (R105, R106). -/
theorem operandOk_eq_false_iff_of_float (hc : c.AtDefaults)
    (h : op ∈ [Op.addF, .subF, .mulF, .divF, .cmpF]) (b : Operand) :
    operandOk c op b = false ↔ ∃ v, b = .imm v := by
  obtain ⟨-, huses, himm, -⟩ := hc
  obtain ⟨hm, hp⟩ := payload_eq_sr2_of_float op h
  exact operandOk_eq_false_iff_of_sr2 (himm ▸ hm) (Config.usesOf_eq_defaultUses huses op ▸ hp) b

/-- By default an opcode with an offset takes no register (R105, R106). -/
theorem operandOk_eq_false_iff_of_offset (hc : c.AtDefaults)
    (h : op ∈ [Op.ldsp, .stsp, .ldfp, .stfp, .ldap, .stap, .jmp, .ld, .st, .ldi, .sti])
    (b : Operand) : operandOk c op b = false ↔ ∃ r, b = .reg r := by
  obtain ⟨-, huses, himm, -⟩ := hc
  obtain ⟨hm, hp⟩ := payload_eq_imm_of_offset op h
  exact operandOk_eq_false_iff_of_imm (himm ▸ hm) (Config.usesOf_eq_defaultUses huses op ▸ hp) b

end

/-! ### Every instruction by default -/

/-- The instructions with these operands that no word stands for by default: the floating-point
opcodes with an immediate, and the opcodes with an offset with a register (R105, R106). -/
def formsWithoutWord (req : CC) (rd ra : Reg) (v : Imm) : List Instr :=
  [.addF rd ra (.imm v), .subF rd ra (.imm v), .mulF rd ra (.imm v), .divF rd ra (.imm v),
    .cmpF req rd ra (.imm v), .ldsp rd (.reg ra), .stsp rd (.reg ra), .ldfp rd (.reg ra),
    .stfp rd (.reg ra), .ldap rd (.reg ra), .stap rd (.reg ra), .jmp req (.reg ra), .ld rd (.reg ra),
    .st rd (.reg ra), .ldi rd (.reg ra), .sti rd (.reg ra)]

/-- By default the ill-formed instructions are those with an operand of the wrong form: every row has
the registers and the request that its instruction names (R105). -/
theorem wellFormed_eq_false_iff {c : Config} (hc : c.AtDefaults) (i : Instr) :
    i.wellFormed c = false ↔ ∃ req rd ra v, i ∈ formsWithoutWord req rd ra v := by
  obtain ⟨-, huses, -⟩ := id hc
  have hrow := Config.usesOf_eq_defaultUses huses
  have hflags : Nonempty CC := ⟨CC.none⟩
  cases i with
  | addI | subI | mulI | divI | and | or | xor | shl | shr | cmpI | ldr | str =>
    simp (disch := decide) [Instr.wellFormed, namedOk, firstOk, reqOk, hrow, Op.defaultUses,
      formsWithoutWord, operandOk_of_mem_defaultImmHonoured hc]
  | addF | subF | mulF | divF | cmpF =>
    simp (disch := decide) [Instr.wellFormed, namedOk, firstOk, reqOk, hrow, Op.defaultUses,
      formsWithoutWord, operandOk_eq_false_iff_of_float hc]
  | ldsp | stsp | ldfp | stfp | ldap | stap | jmp | ld | st | ldi | sti =>
    simp (disch := decide) [Instr.wellFormed, namedOk, reqOk, hrow, Op.defaultUses,
      formsWithoutWord, operandOk_eq_false_iff_of_offset hc]
  | _ =>
    simp [Instr.wellFormed, namedOk, firstOk, sourceOk, hrow, Op.defaultUses, formsWithoutWord]

/-- Settles O8: the round trip of every well-formed instruction, and the ill-formed ones by default. -/
theorem decodeOfEncodeIsTheInstruction : Obligations.DecodeOfEncodeIsTheInstruction := by
  refine ⟨fun c i hc hi => decode_encode hc hi, fun c i hc => ?_⟩
  rw [← Bool.not_eq_false, wellFormed_eq_false_iff hc i]
  simp only [not_exists, formsWithoutWord]

end Sys2Proof
end

section
/-! The unit `DEC` (R141 to R143): which numbers are valid, and the control record as read off the default
field-use table. -/

namespace Sys2Proof

/-! ### The validity signals -/

theorem valid_iff (c : Config) (w : Word) :
    (decOutput c w).valid = true ↔ ∃ o : Op, c.codeOf o = (decodeFields w).op := by
  simpa [decOutput, Option.isSome_iff_ne_none] using
    not_congr (c.opOfCode_eq_none_iff (decodeFields w).op)

theorem halt_iff (c : Config) (w : Word) :
    (decOutput c w).halt = true ↔ (decodeFields w).op = c.codeOf .halt := by
  simp [decOutput]

/-- By default the valid numbers are 0 to 41 (R101, R142). -/
theorem valid_iff_le {c : Config} (h : c.opc = Config.defaultOpc) (w : Word) :
    (decOutput c w).valid = true ↔ (decodeFields w).op.toNat ≤ 41 := by
  have hnone := Config.opOfCode_eq_none_iff_le h (decodeFields w).op
  rw [decOutput, Option.isSome_iff_ne_none, Ne, hnone]
  omega

/-- By default HALT has the number 41 (R101, R142). -/
theorem halt_iff_eq {c : Config} (h : c.opc = Config.defaultOpc) (w : Word) :
    (decOutput c w).halt = true ↔ (decodeFields w).op.toNat = 41 := by
  have hcode : (c.codeOf .halt).toNat = 41 := Config.toNat_codeOf h .halt
  rw [halt_iff, ← BitVec.toNat_inj, hcode]

/-- Settles O11: the image of `OPC`, and the default numbers. -/
theorem decValidAndHalt : Obligations.DecValidAndHalt := by
  refine ⟨fun c w => ⟨valid_iff c w, halt_iff c w⟩, fun c w hc => ?_⟩
  obtain ⟨hopc, -⟩ := hc
  exact ⟨valid_iff_le hopc w, halt_iff_eq hopc w⟩

/-! ### The control record -/

theorem ctl_of_opOfCode_eq_some {c : Config} {w : Word} {op : Op}
    (h : c.opOfCode (decodeFields w).op = some op) :
    (decOutput c w).ctl = c.ctl op (decodeFields w).immf := by
  simp [decOutput, h]

theorem ctl_of_opOfCode_eq_none {c : Config} {w : Word}
    (h : c.opOfCode (decodeFields w).op = none) : (decOutput c w).ctl = Ctl.zero := by
  simp [decOutput, h]

/-! ### The columns of the default tables (R105, R107) -/

theorem f56_eq_read_iff (op : Op) : op.defaultUses.f56 = .read ↔
    op ∈ [Op.str, .push, .stsp, .stfp, .stap, .st, .sti] := by
  cases op <;> decide

theorem f56_eq_write_iff (op : Op) : op.defaultUses.f56 = .write ↔
    op ∉ [Op.str, .push, .stsp, .stfp, .stap, .st, .sti, .jmp, .call, .ret, .putc, .nop, .halt] := by
  cases op <;> decide

theorem sr1_iff (op : Op) : op.defaultUses.sr1 = true ↔
    op ∉ [Op.push, .pop, .ldsp, .stsp, .ldfp, .stfp, .ldap, .stap, .jmp, .ld, .st, .ldi, .sti, .ret,
      .getc, .nop, .halt] := by
  cases op <;> decide

theorem req_iff (op : Op) : op.defaultUses.req = true ↔ op ∈ [Op.cmpI, .cmpF, .jmp] := by
  cases op <;> decide

theorem bSel_eq_imm_iff (op : Op) (b : Bool) : Config.default.bSel op b = .imm ↔
    op ∈ [Op.ldsp, .stsp, .ldfp, .stfp, .ldap, .stap, .jmp, .ld, .st, .ldi, .sti]
      ∨ (op ∈ Config.defaultImmHonoured ∧ b = true) := by
  cases b <;> cases op <;> decide

theorem bSel_eq_sr2_iff (op : Op) (b : Bool) : Config.default.bSel op b = .sr2 ↔
    op ∈ [Op.addF, .subF, .mulF, .divF, .cmpF] ∨ (op ∈ Config.defaultImmHonoured ∧ b = false) := by
  cases b <;> cases op <;> decide

section
variable {c : Config} (h : c.ccWriters = Config.defaultCcWriters) (op : Op)
include h

theorem ccSource_eq_int_iff : c.ccSource op = some .int ↔
    op ∈ [Op.addI, .subI, .mulI, .divI, .negI, .and, .or, .xor, .not, .bnot, .shl, .shr] := by
  rw [Machine.ccSource_default h]
  cases op <;> decide

theorem ccSource_eq_ord_iff : c.ccSource op = some .ord ↔ op ∈ [Op.cmpI, .cmpF] := by
  rw [Machine.ccSource_default h]
  cases op <;> decide

theorem isSome_ccSource_iff : (c.ccSource op).isSome = true ↔
    op ∈ [Op.addI, .subI, .mulI, .divI, .negI, .and, .or, .xor, .not, .bnot, .shl, .shr, .cmpI,
      .cmpF] := by
  rw [Machine.ccSource_default h]
  cases op <;> decide

end

/-- Settles O12: signal by signal from the columns; an unassigned number selects no row. -/
theorem controlRecordFollowsTheTable : Obligations.ControlRecordFollowsTheTable := by
  refine ⟨fun w op hop => ?assigned, fun c w hv => ?unassigned⟩
  case assigned =>
    have hrow : Config.default.usesOf op = op.defaultUses := Config.usesOf_eq_defaultUses rfl op
    rw [ctl_of_opOfCode_eq_some hop]
    simp only [Config.ctl, hrow, beq_iff_eq]
    refine ⟨f56_eq_read_iff op, f56_eq_write_iff op, sr1_iff op, bSel_eq_imm_iff op _,
      bSel_eq_sr2_iff op _, req_iff op, isSome_ccSource_iff rfl op, ccSource_eq_ord_iff rfl op, ?_⟩
    cases op.defaultUses.f56 <;> rfl
  case unassigned =>
    have hnone : c.opOfCode (decodeFields w).op = none := by simpa [decOutput] using hv
    exact ctl_of_opOfCode_eq_none hnone

end Sys2Proof
end

section
/-! The flag computations and the unit `CCU` (R150 to R156): an ordering, `Match`, the flag register, and
the sign of a result. -/

namespace Sys2Proof.Machine

/-! ### Orderings, `Match` and the unit -/

/-- Settles O14: `CCofOrd` by its equations, `Match` as the OR of the three requested flags. -/
theorem orderingFlagsAndMatch : Obligations.OrderingFlagsAndMatch := by
  refine ⟨fun c => ⟨rfl, rfl, rfl, rfl, fun hc => ?_⟩, fun r c => ?_, fun c => ?_, fun r => ?_, fun c => ?_⟩
  · obtain ⟨-, -, -, -, hun, -⟩ := hc
    exact hun
  · simp [ccMatch, or_assoc]
  · simp [ccMatch, CC.none]
  · simp [ccMatch, CC.none]
  · simp [ccMatch]

/-- The port value of an ordering carries that ordering (R130). -/
@[simp] theorem orderOfPort_portOfOrder (o : CmpOrder) : orderOfPort (portOfOrder o) = o := by
  cases o <;> rfl

/-- Settles O15: by the two selects of the unit. -/
theorem flagRegisterHoldsOrTakes : Obligations.FlagRegisterHoldsOrTakes := by
  intro c cc i
  refine ⟨fun hr _ => ?reset, fun hr hw => ?take, fun hr hw => ?hold, fun hs => ?int,
    fun hs o ho => ?ord, rfl, rfl⟩
  case reset => simp [ccuNext, hr]
  case take => simp [ccuNext, hr, hw, ccuOutput]
  case hold => simp [ccuNext, hr, hw]
  case int => simp [ccuOutput, ccuNew, hs]
  case ord => simp [ccuOutput, ccuNew, hs, ho]

/-! ### The sign of a result -/

theorem ccOfInt_n_iff (r : Cell) : (ccOfInt r).n = true ↔ r.toInt < 0 := by
  have hmsb : (ccOfInt r).n = r.msb := (BitVec.msb_eq_getLsbD_last r).symm
  simp [hmsb, BitVec.msb_eq_toInt]

theorem ccOfInt_z_iff (r : Cell) : (ccOfInt r).z = true ↔ r = 0#64 := by
  simp [ccOfInt]

theorem ccOfInt_p_iff (r : Cell) : (ccOfInt r).p = true ↔ 0 < r.toInt := by
  have hz : r ≠ 0#64 ↔ r.toInt ≠ 0 := by
    rw [Ne, ← BitVec.toInt_inj, BitVec.toInt_zero]
  have hp : (ccOfInt r).p = true ↔ ¬(ccOfInt r).n = true ∧ r ≠ 0#64 := by simp [ccOfInt]
  rw [hp, ccOfInt_n_iff, hz]
  omega

/-- Exactly one flag of an integer result is set (R151). -/
theorem ccOfInt_cases (r : Cell) : ccOfInt r = ⟨true, false, false⟩
    ∨ ccOfInt r = ⟨false, true, false⟩ ∨ ccOfInt r = ⟨false, false, true⟩ := by
  by_cases hz : r = 0#64
  · subst hz
    decide
  · cases hn : r.getLsbD 63 <;> simp [ccOfInt, hn, hz]

end Sys2Proof.Machine
end

section
/-! The flags after an instruction and after a step (R107, R151, R153, R158): a trap and an opcode that is
no flag writer leave them, and an instruction with a result takes them from the cell it writes. -/

namespace Sys2Proof.Machine

open Sys2Proof.Claims

/-! ### The opcodes with a result -/

/-- An instruction names a register for its result iff its opcode has one (R105). -/
theorem isSome_resultReg (i : Instr) : (resultReg i).isSome = i.op.hasResult := by
  cases i <;> rfl

/-- The flag source of an instruction with a result is what `CC_WRITERS` lists for it (R107). -/
theorem ccSource_of_resultReg {i : Instr} {rd : Reg} (h : resultReg i = some rd) (c : Config) :
    c.ccSource i.op = c.ccWriters.lookup i.op := by
  have hres : i.op.hasResult = true := by rw [← isSome_resultReg, h, Option.isSome_some]
  simp [Config.ccSource, hres]

/-- A store-like instruction has no result (R105). -/
theorem resultReg_of_mem_storeOps {i : Instr} (h : i.op ∈ storeOps) : resultReg i = none := by
  have hstore : ∀ op ∈ storeOps, op.hasResult = false := by decide
  exact Option.not_isSome_iff_eq_none.mp (by simp [isSome_resultReg, hstore _ h])

/-! ### The flags after an effect -/

section
variable {s t : State} {i : Instr} {rd : Reg}

/-- An instruction takes a trap, or keeps the run state, or halts (R346, R400). -/
theorem Effect.runState_cases (h : Effect s i t) : (∃ c info, t = s.takeTrap c info)
    ∨ t.runState = s.runState ∨ t.runState = .halted := by
  cases h with
  | trap => exact .inl ⟨_, _, rfl⟩
  | halt => exact .inr (.inr rfl)
  | _ => exact .inr (.inl rfl)

/-- An instruction that is no flag writer leaves the flags (R107, R158). -/
theorem Effect.cc_of_ccSource_eq_none (h : Effect s i t) (hsrc : s.cfg.ccSource i.op = none) :
    t.cc = s.cc := by
  obtain hcc | ⟨r, o, hcc⟩ := h.cc_cases
  · exact hcc
  · exact hcc.trans (State.newCC_none r o hsrc)

/-- An instruction with a result, POP apart, that completes has the flags of the cell in its
destination, as `CC_WRITERS` has them (R107, R153). -/
theorem Effect.cc_of_resultReg (h : Effect s i t) (hrd : resultReg i = some rd) (hpop : i.op ≠ .pop)
    (ht : t.trapped = false) (hin : i = .getc rd → s.input ≠ []) :
    ∃ o, t.cc = s.newCC i.op (t.reg rd) o := by
  cases h with
  | trap => cases ht
  | result hrd' | drawnResult hrd' | compare hrd' =>
    cases hrd.symm.trans hrd'
    exact ⟨_, congrArg (s.newCC i.op · _) (State.reg_setReg_same ..).symm⟩
  | gotByte =>
    cases hrd
    exact ⟨_, congrArg (s.newCC .getc · _) (State.reg_setReg_same ..).symm⟩
  | waitInput rd' hnil =>
    cases hrd
    exact absurd hnil (hin rfl)
  | pop => exact absurd rfl hpop
  | store hi =>
    rw [resultReg_of_mem_storeOps hi] at hrd
    cases hrd
  | _ => cases hrd

end

/-! ### POP -/

theorem eq_pop_of_op {i : Instr} {rd : Reg} (hop : i.op = .pop) (hrd : resultReg i = some rd) :
    i = .pop rd := by
  cases i with
  | pop rd' =>
    cases hrd
    rfl
  | _ => cases hop

/-- POP traps or loads a cell, writes it to its destination and decrements R14 (R264). -/
theorem exec_pop_cases {s t : State} {rd : Reg} (h : exec (.pop rd) s = .next t) :
    t.trapped = true ∨ ∃ v, t = s.popWith rd v := by
  cases h
  split
  case isTrue => exact .inl rfl
  case isFalse =>
    obtain ⟨-, ht⟩ | ⟨-, ht⟩ := s.withLoad_cases (s.reg Reg.sp) (s.popWith rd)
    · exact .inr ⟨_, ht⟩
    · exact .inl (by rw [ht]; rfl)

/-- POP R14 leaves the loaded cell, decremented (R264). -/
theorem State.reg_popWith_sp (s : State) (v : Cell) :
    (s.popWith Reg.sp v).reg Reg.sp = v - 1#64 := by
  simp [State.popWith]

/-- POP into another register leaves the loaded cell there (R264). -/
theorem State.reg_popWith_of_ne (s : State) {rd : Reg} (h : rd ≠ Reg.sp) (v : Cell) :
    (s.popWith rd v).reg rd = v := by
  simp [State.popWith, State.reg_setReg_ne _ _ h]

/-- The flags after POP are those of the loaded cell, as `CC_WRITERS` has them (R107, R264). -/
theorem State.popWith_cc (s : State) (rd : Reg) (v : Cell) :
    (s.popWith rd v).cc = s.newCC .pop v (orderOfPort (Config.resultOrder .pop v)) := rfl

/-- Settles O13: the sign of a cell read as an integer; POP by its own rule, every other instruction
by its effect. -/
theorem resultFlagsAreTheSign : Obligations.ResultFlagsAreTheSign := by
  refine ⟨fun r => ⟨ccOfInt_n_iff r, ccOfInt_z_iff r, ccOfInt_p_iff r, ccOfInt_cases r⟩,
    fun s t i rd hlook hrd h ht hin => ?_⟩
  have hsrc : s.cfg.ccSource i.op = some .int := (ccSource_of_resultReg hrd s.cfg).trans hlook
  by_cases hpop : i.op = .pop
  · obtain ⟨rfl⟩ : i = .pop rd := by cases i <;> simp_all [Instr.op, resultReg]
    obtain htrap | ⟨v, rfl⟩ := exec_pop_cases h
    · simp [htrap] at ht
    · rw [State.popWith_cc, State.newCC_int (op := .pop) _ _ hsrc]
      refine congrArg ccOfInt ?_
      split
      case isTrue hsp =>
        cases hsp
        exact (BitVec.sub_add_cancel v 1#64).symm.trans (congrArg (· + 1#64) (s.reg_popWith_sp v).symm)
      case isFalse hne => exact (s.reg_popWith_of_ne (fun hsp => hne (congrArg Instr.pop hsp)) v).symm
  · obtain ⟨o, hcc⟩ := (exec_effect h).cc_of_resultReg hrd hpop ht hin
    have hne : i ≠ .pop 14#4 := fun hi => hpop (by rw [hi]; rfl)
    rw [hcc, State.newCC_int _ _ hsrc, if_neg hne]

/-! ### Every step -/

@[simp] theorem State.illegal_cc (s : State) (w : Word) : (s.illegal w).cc = s.cc := by
  obtain ⟨-, h⟩ | ⟨-, h⟩ := s.illegal_cases w <;> simp [h]

/-- A trap that a RUNNING machine takes leaves the flags (R158, R412). -/
theorem Effect.cc_of_trapped {s t : State} {i : Instr} (h : Effect s i t)
    (hr : s.runState = .running) (ht : t.trapped = true) : t.cc = s.cc := by
  obtain ⟨c, info, rfl⟩ | hrun | hrun := h.runState_cases
  · rfl
  · simp [State.trapped, hrun, hr] at ht
  · simp [State.trapped, hrun] at ht

/-- Settles O55: by the four ways a step answers, the fetched instruction by its effect. -/
theorem onlyWritersChangeTheFlags : Obligations.OnlyWritersChangeTheFlags := by
  intro s t h hkeep
  obtain ⟨-, rfl⟩ | ⟨-, -, rfl⟩ | ⟨w, r, -, -, -, rfl⟩ | ⟨i, hi, hexec⟩ := step_cases h
  · rfl
  · rfl
  · exact s.advance.illegal_cc w
  · obtain htrap | hnone := hkeep
    · obtain ⟨hr, -⟩ := hi
      exact (exec_effect hexec).cc_of_trapped hr htrap
    · exact (exec_effect hexec).cc_of_ccSource_eq_none (hnone i hi)

end Sys2Proof.Machine
end

section
/-! The step and the unit `CCU` (R132, R150 to R156): with the control record of the fetched word on its
ports the unit computes the flags, the compare result and the jump decision of the step. -/

namespace Sys2Proof.Machine

open Sys2Proof.Claims

/-! ### The unit under a control record -/

/-- The ports of the unit in a step without reset: the write signals of a control record, a result, an
ordering and the request (R130). -/
def ccuPorts (ctl : Ctl) (res : Cell) (o : CmpOrder) (req : CC) : CcuInput :=
  ⟨false, ctl.ccWe, ctl.ccSel, res, portOfOrder o, req⟩

/-- Under the record of an opcode the unit holds after the step what `CC_WRITERS` has for it (R150). -/
theorem ccuNext_ctl (s : State) (op : Op) (immf : Bool) (res : Cell) (o : CmpOrder) (req : CC) :
    ccuNext s.cfg s.cc (ccuPorts (s.cfg.ctl op immf) res o req) = s.newCC op res o := by
  obtain ⟨hsrc, h⟩ | ⟨hsrc, h⟩ | ⟨hsrc, h⟩ := s.newCC_cases op res o <;>
    simp [h, ccuPorts, ccuNext, ccuNew, Config.ctl, hsrc]

/-- The record writes the flags from the result iff the opcode's source is `int` (R143). -/
theorem ccSource_eq_int_of_ctl {c : Config} {op : Op} {immf : Bool} (hwe : (c.ctl op immf).ccWe = true)
    (hsel : (c.ctl op immf).ccSel = false) : c.ccSource op = some .int := by
  rcases hsrc : c.ccSource op with _ | _ | _ <;> simp_all [Config.ctl]

theorem ccSource_eq_ord_of_ctl {c : Config} {op : Op} {immf : Bool}
    (hsel : (c.ctl op immf).ccSel = true) : c.ccSource op = some .ord := by
  simpa [Config.ctl] using hsel

/-- With the source `ord` a compare writes `cmp_match` as 1 or 0 (R155). -/
theorem compareCell_eq_cmpMatch {s : State} {ctl : Ctl} (hsel : ctl.ccSel = true) (res : Cell)
    (o : CmpOrder) (req : CC) : s.compareCell req o =
      if (ccuOutput s.cfg s.cc (ccuPorts ctl res o req)).cmpMatch then 1#64 else 0#64 := by
  simp [State.compareCell, cellOfBool, ccuOutput, ccuNew, ccuPorts, hsel]

/-! ### The fetched instruction by default -/

/-- The register that an instruction built from fields writes its result to is that of `dr` (R105). -/
theorem resultReg_instrOf (u : UseRow) (op : Op) (f : Fields) :
    resultReg (instrOf u op f) = if op.hasResult then some f.dr else none := by
  cases op <;> rfl

/-- A flag writer has a result (R107). -/
theorem hasResult_of_ccSource {c : Config} {op : Op} {k : CcSource} (h : c.ccSource op = some k) :
    op.hasResult = true := by
  by_contra hres
  simp [Config.ccSource, hres] at h

/-- A compare ends in `writeCompare` with the request and the register of its fields (R240, R241). -/
theorem exists_writeCompare_of_exec {s t : State} {u : UseRow} {op : Op} {f : Fields}
    (hop : op ∈ [Op.cmpI, .cmpF]) (h : exec (instrOf u op f) s = .next t) :
    ∃ o, t = s.writeCompare op f.req f.dr o := by
  obtain rfl | rfl : op = .cmpI ∨ op = .cmpF := by simpa using hop
  · cases h
    exact ⟨_, rfl⟩
  · cases h
    exact ⟨_, rfl⟩

section
variable {c : Config} {op : Op} (f : Fields)

/-- By default an opcode with a result sees the register of `dr` (R105). -/
theorem dr_used_of_hasResult (hc : c.AtDefaults) (h : op.hasResult = true) :
    (f.used c op).dr = f.dr := by
  obtain ⟨-, huses, -⟩ := hc
  have hrow : (c.usesOf op).f56 = .write := by
    simpa [Config.usesOf_eq_defaultUses huses, Op.hasResult] using h
  simp [Fields.used, hrow]

/-- By default the compares and JMP see the request flags (R105). -/
theorem req_used_of_mem (hc : c.AtDefaults) (h : op ∈ [Op.cmpI, .cmpF, .jmp]) :
    (f.used c op).req = f.req := by
  obtain ⟨-, huses, -⟩ := hc
  have hrow : (c.usesOf op).req = true := by
    rw [Config.usesOf_eq_defaultUses huses]
    exact (req_iff op).mpr h
  simp [Fields.used, hrow]

/-- By default the operand of JMP is the immediate (R105, R106). -/
theorem operand_used_jmp (hc : c.AtDefaults) : (f.used c .jmp).operand = .imm f.imm := by
  obtain ⟨-, huses, himm, -⟩ := hc
  obtain ⟨hm, hp⟩ := payload_eq_imm_of_offset .jmp (by decide)
  exact Fields.operand_used_of_imm
    (Config.bSel_eq_imm (himm ▸ hm) (Config.usesOf_eq_defaultUses huses .jmp ▸ hp) _)

end

section
variable {s t : State} {op : Op} {f : Fields}

/-- The flags after the instruction of a word that completes are those of a result and an ordering: the
result is in the register of `dr` where it gives the flags, and where the ordering gives them `Match` of
it is there (R107, R153, R155). -/
theorem exists_newCC_of_exec (hc : s.cfg.AtDefaults) (ht : t.trapped = false)
    (h : exec (instrOf (s.cfg.usesOf op) op (f.used s.cfg op)) s = .next t) :
    ∃ res o, t.cc = s.newCC op res o
      ∧ (s.cfg.ccSource op = some .int → t.reg f.dr = res)
      ∧ (s.cfg.ccSource op = some .ord → t.reg f.dr = s.compareCell f.req o) := by
  obtain ⟨-, -, -, hwriters, -⟩ := id hc
  have heff := exec_effect h
  cases hsrc : s.cfg.ccSource op with
  | none =>
    have hcc : t.cc = s.cc := heff.cc_of_ccSource_eq_none (by rwa [op_instrOf])
    exact ⟨0#64, .less, hcc.trans (State.newCC_none _ _ hsrc).symm, nofun, nofun⟩
  | some k =>
    have hdr := dr_used_of_hasResult f hc (hasResult_of_ccSource hsrc)
    cases k with
    | int =>
      have hop := (ccSource_eq_int_iff hwriters op).mp hsrc
      have hrd : resultReg (instrOf (s.cfg.usesOf op) op (f.used s.cfg op)) = some f.dr := by
        rw [resultReg_instrOf, if_pos (hasResult_of_ccSource hsrc), hdr]
      have hpop : op ≠ .pop := ne_of_mem_of_not_mem hop (by decide)
      have hgetc : op ≠ .getc := ne_of_mem_of_not_mem hop (by decide)
      obtain ⟨o, hcc⟩ := heff.cc_of_resultReg hrd (by rwa [op_instrOf]) ht fun hi =>
        absurd (congrArg Instr.op hi) (by rwa [op_instrOf])
      exact ⟨t.reg f.dr, o, by rwa [op_instrOf] at hcc, fun _ => rfl, nofun⟩
    | ord =>
      have hop := (ccSource_eq_ord_iff hwriters op).mp hsrc
      have hreq : (f.used s.cfg op).req = f.req :=
        req_used_of_mem f hc (List.mem_append_left [Op.jmp] hop)
      obtain ⟨o, rfl⟩ := exists_writeCompare_of_exec hop h
      rw [hdr, hreq]
      exact ⟨_, o, State.writeCompare_cc .., nofun, fun _ => State.reg_writeCompare_same ..⟩

/-- JMP goes to `npc + I` iff `Match` of its request and the stored flags (R156, R290). -/
theorem pc_of_exec_instrOf_jmp (hc : s.cfg.AtDefaults)
    (h : exec (instrOf (s.cfg.usesOf .jmp) .jmp (f.used s.cfg .jmp)) s = .next t) :
    t.pc = if ccMatch f.req s.cc then s.pc + f.imm.signExtend 64 else s.pc := by
  have hpc := pc_of_exec_jmp h
  rwa [req_used_of_mem f hc (by decide), operand_used_jmp f hc] at hpc

end

/-! ### The step -/

/-- Settles O16: an unassigned word has the zero record, and of an assigned one the result and the
ordering of its instruction are what the ports carry. -/
theorem stepFlagsAreTheUnits : Obligations.StepFlagsAreTheUnits := by
  intro s t w hc hr hf h ht
  cases hop : s.cfg.opOfCode (decodeFields w).op with
  | none =>
    rw [step_of_decode_eq_error hr hf (decode_of_opOfCode_eq_none hop)] at h
    cases h
    have hctl := ctl_of_opOfCode_eq_none hop
    exact ⟨0#64, .less, by simp [hctl, Ctl.zero, ccuNext], by simp [hctl, Ctl.zero],
      by simp [hctl, Ctl.zero], fun hjmp => absurd (hop.symm.trans hjmp) nofun⟩
  | some op =>
    have hfetch : Fetches s _ := ⟨hr, w, hf, decode_of_opOfCode_eq_some hop⟩
    rw [step_of_fetches hfetch] at h
    obtain ⟨res, o, hcc, hint, hord⟩ := exists_newCC_of_exec (s := s.advance) hc ht h
    refine ⟨res, o, ?_⟩
    simp only [ctl_of_opOfCode_eq_some hop]
    refine ⟨?flags, fun hwe hsel => ?result, fun hsel => ?compare, fun hjmp => ?jump⟩
    case flags => exact hcc.trans (ccuNext_ctl s op _ res o _).symm
    case result => exact hint (ccSource_eq_int_of_ctl hwe hsel)
    case compare => exact (hord (ccSource_eq_ord_of_ctl hsel)).trans (compareCell_eq_cmpMatch hsel ..)
    case jump =>
      cases hop.symm.trans hjmp
      exact pc_of_exec_instrOf_jmp (s := s.advance) hc h

end Sys2Proof.Machine
end

section
/-! The five words that the spec prints (R204, R240, R262, R290). -/

namespace Sys2Proof

/-- Settles O1: the decoder evaluated on each word. -/
theorem specWordsDecode : Obligations.SpecWordsDecode :=
  ⟨by decide, by decide, by decide, by decide, by decide⟩

end Sys2Proof
end

section
/-! The integer arithmetic instructions (R200, R201, R204 to R208): what the write of a result changes and
leaves, where an exact result fits, and with them ADD.I, SUB.I, MUL.I, NEG.I and DIV.I. -/

namespace Sys2Proof.Machine

open Sys2Proof.Claims

/-! ### The frame of a result -/

/-- The write of a result changes its register and the flags, and nothing else (R201, R221). -/
theorem State.writesRegFlags_writeResult (s : State) (op : Op) (rd : Reg) (r : Cell) :
    WritesRegFlags s (s.writeResult op rd r) rd r
      (s.newCC op r (orderOfPort (Config.resultOrder op r))) :=
  ⟨s.reg_writeResult_same op rd r, fun _ hq => s.reg_writeResult_ne op r hq, rfl, rfl, fun _ => rfl, rfl,
    rfl, rfl, rfl, rfl, rfl, rfl, rfl⟩

/-- A result whose opcode has the flag source `int` comes with the flags of its sign (R151, R201). -/
theorem State.writesRegFlags_of_int {s : State} {op : Op} (h : s.cfg.ccSource op = some .int)
    (rd : Reg) (r : Cell) : WritesRegFlags s (s.writeResult op rd r) rd r (ccOfInt r) :=
  s.newCC_int r _ h ▸ s.writesRegFlags_writeResult op rd r

/-- A result whose opcode is no flag writer changes its register alone (R107). -/
theorem State.writesReg_of_none {s : State} {op : Op} (h : s.cfg.ccSource op = none)
    (rd : Reg) (r : Cell) : WritesReg s (s.writeResult op rd r) rd r := by
  have hwrites := s.writesRegFlags_writeResult op rd r
  rw [State.newCC_none _ _ h] at hwrites
  exact hwrites

/-- A drawn result whose opcode is no flag writer changes its register and the draws alone (R107). -/
theorem State.writesFree_of_none {s : State} {op : Op} (h : s.cfg.ccSource op = none) (rd : Reg)
    {r : Cell} {p : Cell → Prop} (hp : p r) : WritesFree s (s.drawn.writeResult op rd r) rd p := by
  obtain ⟨hreg, hregs, hcc, hpc, hmem, hdraws, hrest⟩ := State.writesReg_of_none (s := s.drawn) h rd r
  exact ⟨hreg.symm ▸ hp, hregs, hcc, hpc, hmem, hdraws, hrest⟩

/-! ### Results that fit -/

theorem fits64_iff (v : Int) : fits64 v = true ↔ -2 ^ 63 ≤ v ∧ v < 2 ^ 63 := by
  rw [fits64, decide_eq_true_iff]
  omega

/-- Where the exact result fits an integer instruction writes it, whatever `INT_OVERFLOW` (R200). -/
theorem State.writeInt_of_fits {s : State} {v : Int} (h : fits64 v = true) (op : Op) (rd : Reg) :
    s.writeInt op rd v = s.writeResult op rd (BitVec.ofInt 64 v) := by
  simp [State.writeInt, h]

/-- Under `INT_OVERFLOW = trap` an exact result that does not fit traps (R408). -/
theorem State.writeInt_of_not_fits {s : State} {v : Int} (ht : s.cfg.intOverflow = .trap)
    (h : ¬fits64 v = true) (op : Op) (rd : Reg) :
    s.writeInt op rd v = s.takeTrap .integerOverflow s.instrAddr := by
  simp [State.writeInt, ht, h]

/-- An instruction that ends in `writeInt`, with flags from its result, has the three outcomes of an
integer result (R200, R201, R408). -/
theorem integerResult_of_exec {s : State} {i : Instr} {rd : Reg} {v : Int} {r : Cell}
    (hsrc : s.cfg.ccSource i.op = some .int) (hexec : exec i s = .next (s.writeInt i.op rd v))
    (hr : BitVec.ofInt 64 v = r) : IntegerResult i s rd v r := by
  subst hr
  have hwrites := State.writesRegFlags_of_int hsrc rd (BitVec.ofInt 64 v)
  refine ⟨fun hw => ⟨_, hexec, ?wrap⟩, fun _ hlo hhi => ⟨_, hexec, ?fits⟩,
    fun ht hout => ⟨_, hexec, ?traps⟩⟩
  case wrap => rwa [s.writeInt_wrap _ _ _ hw]
  case fits => rwa [State.writeInt_of_fits ((fits64_iff v).mpr ⟨hlo, hhi⟩)]
  case traps =>
    have hfits : ¬fits64 v = true := by
      rw [fits64_iff]
      omega
    exact State.writeInt_of_not_fits ht hfits _ _

/-- Settles O18: each opcode takes its flags from the result, and the cell operation is the integer one
modulo 2^64. -/
theorem integerArithmeticResults : Obligations.IntegerArithmeticResults := by
  intro s rd ra b hw
  refine ⟨integerResult_of_exec (ccSource_default hw _) rfl ?add,
    integerResult_of_exec (ccSource_default hw _) rfl ?sub,
    integerResult_of_exec (ccSource_default hw _) rfl ?mul,
    integerResult_of_exec (ccSource_default hw _) (by rw [← Int.zero_sub]; rfl) ?neg⟩
  case add => simp [BitVec.ofInt_add]
  case sub => simp [Int.sub_eq_add_neg, BitVec.sub_eq_add_neg, BitVec.ofInt_add, BitVec.ofInt_neg]
  case mul => simp [BitVec.ofInt_mul]
  case neg => simp [BitVec.ofInt_neg]

/-! ### The quotient -/

/-- The quotient of the signed values, rounded toward zero, is the signed division of the cells. -/
theorem ofInt_tdiv_toInt (a b : Cell) : BitVec.ofInt 64 (a.toInt.tdiv b.toInt) = a.sdiv b :=
  BitVec.eq_of_toInt_eq (by rw [BitVec.toInt_ofInt, BitVec.toInt_sdiv])

theorem eq_intMin_iff (a : Cell) : a = 0x8000000000000000#64 ↔ a.toInt = -2 ^ 63 :=
  BitVec.toInt_inj.symm

theorem eq_allOnes_iff (b : Cell) : b = 0xFFFFFFFFFFFFFFFF#64 ↔ b.toInt = -1 :=
  BitVec.toInt_inj.symm

/-- DIV.I by zero traps (R403). -/
theorem State.divide_of_zero (s : State) (rd : Reg) (a : Cell) :
    s.divide rd a 0#64 = s.takeTrap .divideByZero s.instrAddr := by
  simp [State.divide]

/-- DIV.I of -2^63 by -1 traps (R404). -/
theorem State.divide_of_overflow (s : State) (rd : Reg) {a b : Cell} (ha : a.toInt = -2 ^ 63)
    (hb : b.toInt = -1) : s.divide rd a b = s.takeTrap .divideOverflow s.instrAddr := by
  simp [State.divide, (eq_intMin_iff a).mpr ha, (eq_allOnes_iff b).mpr hb]

/-- DIV.I of any other operands writes the signed quotient (R207). -/
theorem State.divide_of_defined (s : State) (rd : Reg) {a b : Cell} (hb : b ≠ 0#64)
    (hab : ¬(a.toInt = -2 ^ 63 ∧ b.toInt = -1)) :
    s.divide rd a b = s.writeResult .divI rd (a.sdiv b) := by
  rw [← eq_intMin_iff, ← eq_allOnes_iff] at hab
  rw [State.divide, if_neg hb, if_neg hab, ofInt_tdiv_toInt]

/-- The signed quotient overflows for -2^63 by -1 alone (R207). -/
theorem toInt_sdiv_of_defined {a b : Cell} (hab : ¬(a.toInt = -2 ^ 63 ∧ b.toInt = -1)) :
    (a.sdiv b).toInt = a.toInt.tdiv b.toInt := by
  rw [← eq_intMin_iff, ← eq_allOnes_iff] at hab
  exact BitVec.toInt_sdiv_of_ne_or_ne a b (not_and_or.mp hab)

/-- Settles O19: the three ways DIV.I ends, in the order of its checks. -/
theorem divideResultsAndTraps : Obligations.DivideResultsAndTraps := by
  intro s rd ra b hw
  refine ⟨fun hb => ⟨_, rfl, ?zero⟩, fun ha hb => ⟨_, rfl, s.divide_of_overflow rd ha hb⟩,
    fun hb hab => ⟨_, (s.reg ra).sdiv (s.operand b), rfl, ?quotient, toInt_sdiv_of_defined hab⟩⟩
  case zero =>
    rw [hb]
    exact s.divide_of_zero rd _
  case quotient =>
    rw [s.divide_of_defined rd hb hab]
    exact State.writesRegFlags_of_int (ccSource_default hw .divI) rd _

end Sys2Proof.Machine
end

section
/-! Which binary64 a cell encodes (R9, U7), read from its exponent and fraction fields, and the results of
the floating-point instructions (R202, R209 to R213): a number or some NaN, and what the number is. -/

namespace Sys2Proof.Machine

open Sys2Proof.Claims

/-! ### NaNs -/

/-- A NaN has the exponent all ones and a fraction that is not zero (R9, U7). -/
theorem isNan_iff (c : Cell) :
    isNan c = true ↔ c.extractLsb' 52 11 = 0x7FF#11 ∧ c.extractLsb' 0 52 ≠ 0#52 := by
  have hexp : c.extractLsb' 52 11 = 0x7FF#11 ↔ (c.extractLsb' 52 11).toNat = 2047 := by
    rw [← BitVec.toNat_inj]
    rfl
  have hfrac : c.extractLsb' 0 52 = 0#52 ↔ (c.extractLsb' 0 52).toNat = 0 := by
    rw [← BitVec.toNat_inj]
    rfl
  rw [isNan, decide_eq_true_iff, Ne, hexp, hfrac]
  unfold fpValue
  dsimp only
  split_ifs with he hf
  · exact iff_of_false nofun fun ⟨_, hne⟩ => hne hf
  · exact iff_of_true rfl ⟨he, hf⟩
  · exact iff_of_false nofun fun ⟨heq, _⟩ => he heq

/-- Setting all exponent bits and keeping the fraction, or setting one of its bits where it is zero,
gives a NaN (U7). -/
theorem isNan_nanOf (b : Cell) : isNan (nanOf b) = true := by
  rw [isNan_iff]
  unfold nanOf
  split_ifs with hf <;> refine ⟨BitVec.extractLsb'_or.trans BitVec.or_allOnes, ?_⟩ <;>
    rw [BitVec.extractLsb'_or]
  case pos =>
    rw [hf]
    decide
  case neg =>
    rwa [show (0x7FF0000000000000#64).extractLsb' 0 52 = 0#52 from rfl, BitVec.or_zero]

theorem isNan_iff_fpValue (c : Cell) : isNan c = true ↔ fpValue c = .nan := decide_eq_true_iff

@[simp] theorem fpValue_fpNeg_fpInf (s : Bool) : fpValue (fpNeg (fpInf s)) = .inf !s :=
  fpValue_fpNeg_inf (fpValue_fpInf s)

/-! ### The end of a floating-point instruction -/

/-- An instruction that ends in `writeFp` and is no flag writer writes the number, or some NaN (R202). -/
theorem floatResult_of_exec {s : State} {i : Instr} {rd : Reg} {r : Option Cell}
    (hsrc : s.cfg.ccSource i.op = none) (hexec : exec i s = .next (s.writeFp i.op rd r)) :
    FloatResult i s rd r := by
  refine ⟨fun v hv => ⟨_, hexec, ?number⟩, fun hr => ⟨_, hexec, ?nan⟩⟩
  case number =>
    subst hv
    exact State.writesReg_of_none hsrc rd v
  case nan =>
    subst hr
    exact State.writesFree_of_none hsrc rd (isNan_nanOf _)

/-- Settles O20: by the common end of the four opcodes, and for NEG.F by the write of its result. -/
theorem floatArithmeticResults : Obligations.FloatArithmeticResults := by
  intro s rd ra b hw
  refine ⟨floatResult_of_exec (ccSource_default hw _) rfl, floatResult_of_exec (ccSource_default hw _) rfl,
    floatResult_of_exec (ccSource_default hw _) rfl, floatResult_of_exec (ccSource_default hw _) rfl,
    _, rfl, State.writesReg_of_none (ccSource_default hw _) rd _⟩

/-! ### What the four operations compute -/

section
variable (r : Rounding) {a b : Cell} {x y : FpVal}

theorem fpAdd_of_fpValue (ha : fpValue a = x) (hb : fpValue b = y) : fpAdd r a b = x.add r y := by
  rw [fpAdd, ha, hb]

/-- A difference is the sum with the negated second operand (R210). -/
theorem fpSub_of_fpValue (ha : fpValue a = x) (hb : fpValue (fpNeg b) = y) : fpSub r a b = x.add r y :=
  fpAdd_of_fpValue r ha hb

theorem fpMul_of_fpValue (ha : fpValue a = x) (hb : fpValue b = y) : fpMul r a b = x.mul r y := by
  rw [fpMul, ha, hb]

theorem fpDiv_of_fpValue (ha : fpValue a = x) (hb : fpValue b = y) : fpDiv r a b = x.div r y := by
  rw [fpDiv, ha, hb]

/-- A NaN operand gives a NaN in every operation (R202). -/
theorem FpVal.ops_of_nan (h : x = .nan ∨ y = .nan) :
    x.add r y = none ∧ x.mul r y = none ∧ x.div r y = none := by
  obtain rfl | rfl := h
  · exact ⟨rfl, rfl, rfl⟩
  · cases x <;> exact ⟨rfl, rfl, rfl⟩

theorem fp_ops_of_isNan (h : isNan a = true ∨ isNan b = true) :
    fpAdd r a b = none ∧ fpSub r a b = none ∧ fpMul r a b = none ∧ fpDiv r a b = none := by
  rw [isNan_iff_fpValue, isNan_iff_fpValue] at h
  obtain ⟨hadd, hmul, hdiv⟩ := FpVal.ops_of_nan r h
  obtain ⟨hsub, -, -⟩ := FpVal.ops_of_nan r (h.imp_right fpValue_fpNeg_nan)
  exact ⟨hadd, hsub, hmul, hdiv⟩

/-! #### Finite operands -/

/-- A non-zero exact sum is rounded once (R209). -/
theorem fpSumFinite_of_ne_zero {s t : Bool} {j k : Nat} {v : Int} (hv : v = signed s j + signed t k)
    (h : v ≠ 0) : fpSumFinite r s j t k = fpRound r (decide (v < 0)) v.natAbs 1 := by
  subst hv
  rw [fpSumFinite, if_neg h]

/-- An exact zero of two opposite signs is +0, unless rounding is toward negative (R209, R210). -/
theorem fpSumFinite_of_cancel {s t : Bool} {j k : Nat} (hr : r ≠ .towardNegative)
    (h : signed s j + signed t k = 0) (hst : s ≠ t) : fpSumFinite r s j t k = fpZero false := by
  rw [fpSumFinite, if_pos h, if_neg hst, decide_eq_false hr]

variable {s t : Bool} {j k : Nat}

theorem fpAdd_of_fin (ha : fpValue a = .fin s j) (hb : fpValue b = .fin t k) {v : Int}
    (hv : v = signed s j + signed t k) (h : v ≠ 0) :
    fpAdd r a b = some (fpRound r (decide (v < 0)) v.natAbs 1) :=
  (fpAdd_of_fpValue r ha hb).trans (congrArg some (fpSumFinite_of_ne_zero r hv h))

theorem fpSub_of_fin (ha : fpValue a = .fin s j) (hb : fpValue b = .fin t k) {v : Int}
    (hv : v = signed s j - signed t k) (h : v ≠ 0) :
    fpSub r a b = some (fpRound r (decide (v < 0)) v.natAbs 1) := by
  rw [Int.sub_eq_add_neg, ← signed_not] at hv
  exact fpAdd_of_fin r ha (fpValue_fpNeg_fin hb) hv h

theorem fpMul_of_fin (ha : fpValue a = .fin s j) (hb : fpValue b = .fin t k) :
    fpMul r a b = some (fpRound r (s ^^ t) (j * k) (2 ^ 1074)) :=
  fpMul_of_fpValue r ha hb

theorem fpDiv_of_fin (ha : fpValue a = .fin s j) (hb : fpValue b = .fin t k) (hk : k ≠ 0) :
    fpDiv r a b = some (fpRound r (s ^^ t) (j * 2 ^ 1074) k) :=
  (fpDiv_of_fpValue r ha hb).trans (if_neg hk)

/-- A value less itself is +0, unless rounding is toward negative (R210). -/
theorem fpSub_self_of_fin (hr : r ≠ .towardNegative) (ha : fpValue a = .fin s k) :
    fpSub r a a = some (fpZero false) :=
  (fpSub_of_fpValue r ha (fpValue_fpNeg_fin ha)).trans <| congrArg some <|
    fpSumFinite_of_cancel r hr (by simp) (by simp)

/-! #### Infinities and zeros -/

/-- Infinities of one sign add up to that infinity, of opposite signs to a NaN (R209, log entry 14). -/
theorem fpAdd_inf_inf (s t : Bool) :
    fpAdd r (fpInf s) (fpInf t) = if s = t then some (fpInf s) else none :=
  fpAdd_of_fpValue r (fpValue_fpInf s) (fpValue_fpInf t)

/-- Infinities of one sign subtracted give a NaN, of opposite signs the first (R210, log entry 14). -/
theorem fpSub_inf_inf (s t : Bool) :
    fpSub r (fpInf s) (fpInf t) = if s = t then none else some (fpInf s) := by
  rw [fpSub_of_fpValue r (fpValue_fpInf s) (fpValue_fpNeg_fpInf t)]
  cases s <;> cases t <;> rfl

/-- Zero times an infinity is a NaN, in either order (R211). -/
theorem fpMul_zero_inf (s t : Bool) :
    fpMul r (fpZero s) (fpInf t) = none ∧ fpMul r (fpInf t) (fpZero s) = none :=
  ⟨fpMul_of_fpValue r (fpValue_fpZero s) (fpValue_fpInf t),
    fpMul_of_fpValue r (fpValue_fpInf t) (fpValue_fpZero s)⟩

/-- 0/0 and infinity/infinity are a NaN (R212). -/
theorem fpDiv_zero_zero_inf_inf (s t : Bool) :
    fpDiv r (fpZero s) (fpZero t) = none ∧ fpDiv r (fpInf s) (fpInf t) = none :=
  ⟨fpDiv_of_fpValue r (fpValue_fpZero s) (fpValue_fpZero t),
    fpDiv_of_fpValue r (fpValue_fpInf s) (fpValue_fpInf t)⟩

/-- The sum and the difference of a finite value and an infinity, in either order (log entry 14). -/
theorem fpAdd_fpSub_fin_inf (ha : fpValue a = .fin s k) (t : Bool) :
    fpAdd r a (fpInf t) = some (fpInf t) ∧ fpAdd r (fpInf t) a = some (fpInf t)
      ∧ fpSub r a (fpInf t) = some (fpInf !t) ∧ fpSub r (fpInf t) a = some (fpInf t) :=
  ⟨fpAdd_of_fpValue r ha (fpValue_fpInf t), fpAdd_of_fpValue r (fpValue_fpInf t) ha,
    fpSub_of_fpValue r ha (fpValue_fpNeg_fpInf t),
    fpSub_of_fpValue r (fpValue_fpInf t) (fpValue_fpNeg_fin ha)⟩

/-- The quotients of a finite value and an infinity (log entry 14). -/
theorem fpDiv_fin_inf (ha : fpValue a = .fin s k) (t : Bool) :
    fpDiv r a (fpInf t) = some (fpZero (s ^^ t)) ∧ fpDiv r (fpInf t) a = some (fpInf (s ^^ t)) := by
  refine ⟨fpDiv_of_fpValue r ha (fpValue_fpInf t), ?_⟩
  rw [Bool.xor_comm]
  exact fpDiv_of_fpValue r (fpValue_fpInf t) ha

/-- A non-zero finite value times an infinity, in either order, and divided by a zero, is the infinity
of the exclusive or of the signs (R211, R212, log entry 14). -/
theorem fpMul_fpDiv_of_ne_zero (ha : fpValue a = .fin s k) (hk : k ≠ 0) (t : Bool) :
    fpMul r a (fpInf t) = some (fpInf (s ^^ t)) ∧ fpMul r (fpInf t) a = some (fpInf (s ^^ t))
      ∧ fpDiv r a (fpZero t) = some (fpInf (s ^^ t)) := by
  refine ⟨(fpMul_of_fpValue r ha (fpValue_fpInf t)).trans (if_neg hk), ?right, ?div⟩
  case right =>
    rw [Bool.xor_comm]
    exact (fpMul_of_fpValue r (fpValue_fpInf t) ha).trans (if_neg hk)
  case div => rw [fpDiv_of_fpValue r ha (fpValue_fpZero t), FpVal.div, if_pos rfl, if_neg hk]

end

/-- Settles O21: each case is the operation's own clause at the values that the operands encode. -/
theorem floatSpecialCases : Obligations.FloatSpecialCases := by
  refine ⟨isNan_iff, fun r => ⟨fun a b h => fp_ops_of_isNan r h, fun a b s t j k ha hb => ?finite,
    fpAdd_inf_inf r, fpSub_inf_inf r, fpMul_zero_inf r,
    fun s t => fpMul_of_fpValue r (fpValue_fpInf s) (fpValue_fpInf t), fpDiv_zero_zero_inf_inf r,
    fun a s t k ha => ?infinite, fun hr => ⟨?zeros, fun a s k ha => fpSub_self_of_fin r hr ha⟩⟩⟩
  case finite =>
    exact ⟨fun v hv h => fpAdd_of_fin r ha hb hv h, fun v hv h => fpSub_of_fin r ha hb hv h,
      fpMul_of_fin r ha hb, fpDiv_of_fin r ha hb⟩
  case infinite =>
    obtain ⟨hadd, hadd', hsub, hsub'⟩ := fpAdd_fpSub_fin_inf r ha t
    obtain ⟨hdiv, hdiv'⟩ := fpDiv_fin_inf r ha t
    exact ⟨hadd, hadd', hsub, hsub', hdiv, hdiv', fun hk => fpMul_fpDiv_of_ne_zero r ha hk t⟩
  case zeros =>
    exact (fpAdd_of_fpValue r (fpValue_fpZero false) (fpValue_fpZero true)).trans <| congrArg some <|
      fpSumFinite_of_cancel r hr rfl (by decide)

end Sys2Proof.Machine
end

section
/-! Rounding to binary64 (R9, R202). The finite value with magnitude bits `m` is `magUnits m` units; these
grow with `m`, and each `m` is `e * 2^52 + g` for one significand `g` in the binade `e`, worth `g * 2^e`
units. An exact value of `n / d` units lies between two neighbours, and the default rounding takes the
nearer one, or of two as near the even one. -/

namespace Sys2Proof.Machine

open Sys2Proof.Claims

/-! ### Binades and significands -/

/-- `g` is a significand of the binade `e`: below 2^53, and at least 2^52 in every binade but the
first, which holds the subnormals too (R9). -/
def IsSignificand (e g : Nat) : Prop := g < 2 ^ 53 ∧ (e = 0 ∨ 2 ^ 52 ≤ g)

/-- The magnitude bits of the significand `g` in the binade `e`. -/
def magOf (e g : Nat) : Nat := e * 2 ^ 52 + g

/-- Every magnitude is a significand in a binade. -/
theorem exists_significand (m : Nat) : ∃ e g, IsSignificand e g ∧ m = magOf e g := by
  refine ⟨m / 2 ^ 52 - 1, m - (m / 2 ^ 52 - 1) * 2 ^ 52, ?_, ?_⟩
  · unfold IsSignificand
    omega
  · unfold magOf
    omega

section
variable {e g : Nat} (h : IsSignificand e g)
include h

/-- The units of a significand (R9). -/
theorem magUnits_magOf : magUnits (magOf e g) = g * 2 ^ e := by
  obtain ⟨hg, hnormal⟩ := h
  unfold magUnits magOf fpUnits
  by_cases hsub : g < 2 ^ 52
  · obtain rfl : e = 0 := by omega
    have hexp : (0 * 2 ^ 52 + g) / 2 ^ 52 = 0 := by omega
    have hfrac : (0 * 2 ^ 52 + g) % 2 ^ 52 = g := by omega
    rw [hexp, hfrac, if_pos rfl, Nat.shiftLeft_eq]
  · have hexp : (e * 2 ^ 52 + g) / 2 ^ 52 = e + 1 := by omega
    have hfrac : 2 ^ 52 + (e * 2 ^ 52 + g) % 2 ^ 52 = g := by omega
    rw [hexp, hfrac, if_neg e.succ_ne_zero, Nat.shiftLeft_eq, Nat.add_sub_cancel]

/-- The next magnitude has one unit of the significand more, also where it begins the next binade. -/
theorem magUnits_magOf_succ : magUnits (magOf e g + 1) = (g + 1) * 2 ^ e := by
  by_cases hlast : g + 1 = 2 ^ 53
  · have hnext : magOf e g + 1 = magOf (e + 1) (2 ^ 52) := by
      unfold magOf
      omega
    rw [hnext, magUnits_magOf ⟨by decide, .inr le_rfl⟩, hlast]
    ring
  · obtain ⟨hg, hnormal⟩ := h
    have hnext : magOf e g + 1 = magOf e (g + 1) := Nat.add_assoc ..
    rw [hnext, magUnits_magOf ⟨by omega, by omega⟩]

end

/-- The units grow with the magnitude bits (R9). -/
theorem magUnits_strictMono : StrictMono magUnits := by
  refine strictMono_nat_of_lt_succ fun m => ?_
  obtain ⟨e, g, h, rfl⟩ := exists_significand m
  rw [magUnits_magOf h, magUnits_magOf_succ h]
  exact Nat.mul_lt_mul_of_pos_right g.lt_succ_self (Nat.two_pow_pos e)

/-- `fpBinade` is the one binade in which the number's leading part is a significand (R202). -/
theorem isSignificand_div_iff (w e : Nat) : IsSignificand e (w / 2 ^ e) ↔ fpBinade w = e := by
  have hpos : 0 < 2 ^ e := Nat.two_pow_pos e
  rw [IsSignificand, Nat.div_lt_iff_lt_mul hpos, Nat.le_div_iff_mul_le hpos, ← pow_add, ← pow_add,
    fpBinade]
  split_ifs with hw
  · constructor
    · rintro ⟨-, rfl | hle⟩
      · rfl
      · by_contra he
        have hmono : 2 ^ 53 ≤ 2 ^ (52 + e) := Nat.pow_le_pow_right (by decide) (by omega)
        omega
    · rintro rfl
      exact ⟨hw, .inl rfl⟩
  · have hlog : 53 ≤ w.log2 := (Nat.le_log2 (by omega)).mpr (Nat.not_lt.mp hw)
    have hbinade : w.log2 - 52 = e ↔ w.log2 = 52 + e := by omega
    rw [hbinade, Nat.log2_eq_iff (by omega), show 52 + e + 1 = 53 + e by omega]
    constructor
    · rintro ⟨hlt, rfl | hle⟩
      · exact absurd hlt hw
      · exact ⟨hle, hlt⟩
    · rintro ⟨hle, hlt⟩
      exact ⟨hlt, .inr hle⟩

/-- The rounded magnitude, its binade and its rounded significand named (R202). -/
theorem roundMag_eq (r : Rounding) (neg : Bool) (n d : Nat) :
    roundMag r neg n d = min (magOf (fpBinade (n / d))
      (roundQuotient r neg n (d * 2 ^ fpBinade (n / d)))) (greatestMag r neg) := by
  rw [← Nat.shiftLeft_eq]
  rfl

/-! ### Exact values -/

/-- An integer quotient is rounded to itself in every direction (R202). -/
theorem roundQuotient_mul (r : Rounding) (neg : Bool) (g : Nat) {d : Nat} (hd : 0 < d) :
    roundQuotient r neg (g * d) d = g := by
  cases r <;> simp [roundQuotient, roundHalfEven, Nat.mul_div_cancel _ hd, hd]

/-- The greatest magnitude of a result is that of infinity or of the greatest finite value (R202). -/
theorem greatestMag_cases (r : Rounding) (neg : Bool) :
    greatestMag r neg = fpInfMag ∨ greatestMag r neg = fpInfMag - 1 := by
  cases r with
  | nearestEven | nearestAway => exact .inl rfl
  | towardZero => exact .inr rfl
  | towardPositive | towardNegative => cases neg <;> simp [greatestMag]

/-- No direction bounds the magnitude of a result below the greatest finite value (log entry 14). -/
theorem le_greatestMag {m : Nat} (hm : m < fpInfMag) (r : Rounding) (neg : Bool) :
    m ≤ greatestMag r neg := by
  have hcases := greatestMag_cases r neg
  omega

/-- The units of a finite value are rounded to its magnitude bits (R202). -/
theorem roundMag_magUnits (r : Rounding) (neg : Bool) {m d : Nat} (hd : 0 < d) (hm : m < fpInfMag) :
    roundMag r neg (magUnits m * d) d = m := by
  obtain ⟨e, g, h, rfl⟩ := exists_significand m
  have hbinade : fpBinade (g * 2 ^ e) = e :=
    (isSignificand_div_iff _ e).mp (by rwa [Nat.mul_div_cancel _ (Nat.two_pow_pos e)])
  have hround : roundQuotient r neg (g * 2 ^ e * d) (d * 2 ^ e) = g := by
    rw [mul_assoc, mul_comm (2 ^ e) d]
    exact roundQuotient_mul r neg g (Nat.mul_pos hd (Nat.two_pow_pos e))
  rw [roundMag_eq, magUnits_magOf h, Nat.mul_div_cancel _ hd, hbinade, hround]
  exact min_eq_left (le_greatestMag hm r neg)

/-! #### The fields of a cell -/

/-- The magnitude bits of a cell: all but its sign bit (R9). -/
def magBits (c : Cell) : Nat := c.toNat % 2 ^ 63

theorem toNat_exponent (c : Cell) : (c.extractLsb' 52 11).toNat = magBits c / 2 ^ 52 := by
  rw [BitVec.extractLsb'_toNat, Nat.shiftRight_eq_div_pow, magBits]
  omega

theorem toNat_fraction (c : Cell) : (c.extractLsb' 0 52).toNat = magBits c % 2 ^ 52 := by
  rw [BitVec.extractLsb'_toNat, Nat.shiftRight_zero, magBits]
  omega

/-- A cell is its sign and its magnitude bits (R9). -/
theorem fpCell_magBits (c : Cell) : fpCell (c.getLsbD 63) (magBits c) = c := by
  have hsign : c.getLsbD 63 = decide (2 ^ 63 ≤ c.toNat) :=
    (BitVec.msb_eq_getLsbD_last c).symm.trans (BitVec.msb_eq_decide c)
  have hc : c.toNat < 2 ^ 64 := c.isLt
  refine BitVec.eq_of_toNat_eq ?_
  rw [fpCell, hsign, BitVec.toNat_ofNat, magBits]
  simp only [decide_eq_true_eq]
  split_ifs <;> omega

/-- The magnitude bits of a finite cell are below those of infinity and give its units (R9). -/
theorem magBits_of_fin {c : Cell} {neg : Bool} {k : Nat} (h : fpValue c = .fin neg k) :
    c.getLsbD 63 = neg ∧ magBits c < fpInfMag ∧ magUnits (magBits c) = k := by
  unfold fpValue at h
  dsimp only at h
  rw [toNat_exponent, toNat_fraction] at h
  split_ifs at h with hexp
  have hlt : magBits c < 2 ^ 63 := Nat.mod_lt _ (by decide)
  have hfin : magBits c < fpInfMag := by
    unfold fpInfMag
    omega
  injection h with hneg hk
  exact ⟨hneg, hfin, hk⟩

/-- Settles O23: the units of a finite cell's magnitude bits are rounded to these bits. -/
theorem exactValuesAreNotRounded : Obligations.ExactValuesAreNotRounded := by
  intro r c neg k d hd hc
  obtain ⟨rfl, hfin, rfl⟩ := magBits_of_fin hc
  rw [fpRound, roundMag_magUnits r _ hd hfin, fpCell_magBits]

/-! ### The nearest value -/

/-- The magnitude bits of `n / d` units rounded to nearest, ties to even, with no bound on them. -/
def nearestMag (n d : Nat) : Nat :=
  magOf (fpBinade (n / d)) (roundHalfEven n (d * 2 ^ fpBinade (n / d)))

theorem roundMag_nearestEven (neg : Bool) (n d : Nat) :
    roundMag .nearestEven neg n d = min (nearestMag n d) fpInfMag :=
  roundMag_eq .nearestEven neg n d

/-- A quotient is rounded to the nearer of its two neighbours, and from the middle to the even one. -/
theorem roundHalfEven_cases (n d : Nat) :
    (2 * (n % d) < d ∧ roundHalfEven n d = n / d)
      ∨ (d < 2 * (n % d) ∧ roundHalfEven n d = n / d + 1)
      ∨ (2 * (n % d) = d ∧ roundHalfEven n d = n / d + n / d % 2) := by
  unfold roundHalfEven
  dsimp only
  split_ifs <;> omega

/-- `n / d` units lie between two neighbours `p` and `p + 1`; the rounded magnitude is `p` up to the
middle between them and `p + 1` from it on, and in the middle it is even (R202). -/
theorem nearestMag_cases (n : Nat) {d : Nat} (hd : 0 < d) :
    ∃ p, d * magUnits p ≤ n ∧ n < d * magUnits (p + 1)
      ∧ ((2 * n ≤ d * magUnits p + d * magUnits (p + 1) ∧ nearestMag n d = p)
        ∨ (d * magUnits p + d * magUnits (p + 1) ≤ 2 * n ∧ nearestMag n d = p + 1))
      ∧ (2 * n = d * magUnits p + d * magUnits (p + 1) → nearestMag n d % 2 = 0) := by
  unfold nearestMag
  generalize he : fpBinade (n / d) = e
  have hsig : IsSignificand e (n / (d * 2 ^ e)) := by
    rw [← Nat.div_div_eq_div_mul]
    exact (isSignificand_div_iff _ e).mpr he
  have hdiv := Nat.div_add_mod n (d * 2 ^ e)
  have hmod := Nat.mod_lt n (Nat.mul_pos hd (Nat.two_pow_pos e))
  have hround := roundHalfEven_cases n (d * 2 ^ e)
  generalize n / (d * 2 ^ e) = g at *
  have hlo : d * magUnits (magOf e g) = d * 2 ^ e * g := by
    rw [magUnits_magOf hsig]
    ring
  have hhi : d * magUnits (magOf e g + 1) = d * 2 ^ e * g + d * 2 ^ e := by
    rw [magUnits_magOf_succ hsig]
    ring
  refine ⟨magOf e g, ?_⟩
  rw [hlo, hhi]
  unfold magOf
  omega

theorem distance_eq (n d m : Nat) :
    distance n d m = ((n : Int) - ((d * magUnits m : Nat) : Int)).natAbs := by
  rw [distance, Nat.cast_mul]

/-- No finite value is nearer than the rounded one, and another as near leaves it even (R202). -/
theorem distance_nearestMag (n : Nat) {d : Nat} (hd : 0 < d) (m : Nat) :
    distance n d (nearestMag n d) ≤ distance n d m
      ∧ (distance n d m = distance n d (nearestMag n d) → m ≠ nearestMag n d →
        nearestMag n d % 2 = 0) := by
  have hmono : StrictMono fun m => d * magUnits m := magUnits_strictMono.const_mul hd
  obtain ⟨p, hlo, hhi, hq, heven⟩ := nearestMag_cases n hd
  have hbelow : m < p → d * magUnits m < d * magUnits p := @hmono m p
  have habove : p + 1 < m → d * magUnits (p + 1) < d * magUnits m := @hmono (p + 1) m
  have hm : m < p ∨ m = p ∨ m = p + 1 ∨ p + 1 < m := by omega
  rw [distance_eq, distance_eq]
  generalize nearestMag n d = q at *
  obtain ⟨hmid, rfl⟩ | ⟨hmid, rfl⟩ := hq <;> obtain hm | rfl | rfl | hm := hm <;> omega

theorem isSignificand_greatest : IsSignificand 2045 (2 ^ 53 - 1) := by
  unfold IsSignificand
  decide

/-- The magnitude bits below those of infinity are the last significand of the last binade (R9). -/
theorem magUnits_greatest : magUnits (fpInfMag - 1) = (2 ^ 53 - 1) * 2 ^ 2045 := by
  have hmag : fpInfMag - 1 = magOf 2045 (2 ^ 53 - 1) := rfl
  rw [hmag, magUnits_magOf isSignificand_greatest]

/-- The magnitude bits of infinity would be the next power of two (R9). -/
theorem magUnits_fpInfMag : magUnits fpInfMag = 2 ^ 53 * 2 ^ 2045 := by
  have hmag : fpInfMag = magOf 2045 (2 ^ 53 - 1) + 1 := rfl
  rw [hmag, magUnits_magOf_succ isSignificand_greatest, Nat.sub_add_cancel (by decide)]

/-- The rounding overflows from the middle between the greatest finite value and the next power of two
on (R202, log entry 14). -/
theorem fpInfMag_le_nearestMag_iff (n : Nat) {d : Nat} (hd : 0 < d) :
    fpInfMag ≤ nearestMag n d ↔ d * ((2 ^ 54 - 1) * 2 ^ 2044) ≤ n := by
  have hmono : Monotone fun m => d * magUnits m := (magUnits_strictMono.const_mul hd).monotone
  have hmid : d * magUnits (fpInfMag - 1) + d * magUnits fpInfMag
      = 2 * (d * ((2 ^ 54 - 1) * 2 ^ 2044)) := by
    rw [magUnits_greatest, magUnits_fpInfMag, pow_succ 2 2044]
    generalize 2 ^ 2044 = u
    ring
  obtain ⟨p, hlo, hhi, hq, heven⟩ := nearestMag_cases n hd
  have hsucc : fpInfMag = fpInfMag - 1 + 1 := rfl
  have hodd : (fpInfMag - 1) % 2 = 1 := rfl
  generalize fpInfMag - 1 = g at *
  rw [hsucc] at hmid ⊢
  have hlast : d * magUnits g ≤ d * magUnits (g + 1) := hmono g.le_succ
  obtain hp | rfl | hp := lt_trichotomy p g
  · have hnext : d * magUnits (p + 1) ≤ d * magUnits g := hmono hp
    omega
  · omega
  · have hnext : d * magUnits (g + 1) ≤ d * magUnits p := hmono hp
    omega

/-- Settles O22: the rounding with no bound is to nearest, and the bound takes effect from the middle
above the greatest finite value on. -/
theorem roundingIsToNearestEven : Obligations.RoundingIsToNearestEven := by
  intro neg n d hd q
  have hq : q = min (nearestMag n d) fpInfMag := roundMag_nearestEven neg n d
  refine ⟨rfl, fun hfin m _ => ?nearest, ?overflow⟩
  case nearest =>
    have hq' : q = nearestMag n d := by omega
    rw [hq']
    exact distance_nearestMag n hd m
  case overflow =>
    rw [← fpInfMag_le_nearestMag_iff n hd, hq]
    exact min_eq_right_iff

end Sys2Proof.Machine
end

section
/-! The bitwise and shift instructions (R220 to R229): each ends in the write of one cell with the flags of
its sign, and that cell is the operation bit by bit, or arithmetic with a power of two. -/

namespace Sys2Proof.Machine

open Sys2Proof.Claims

/-! ### The end of a bitwise or shift instruction -/

/-- An instruction that writes `r` with flags from its result leaves a result of which all holds that
holds of `r` (R221). -/
theorem exists_result_of_exec {s : State} {i : Instr} {rd : Reg} {r : Cell} {p : Cell → Prop}
    (hsrc : s.cfg.ccSource i.op = some .int) (hexec : exec i s = .next (s.writeResult i.op rd r))
    (hp : p r) : ∃ t q, exec i s = .next t ∧ WritesRegFlags s t rd q (ccOfInt q) ∧ p q :=
  ⟨_, r, hexec, State.writesRegFlags_of_int hsrc rd r, hp⟩

/-! ### Bit by bit -/

/-- Settles O27: each opcode ends in the write of the cell operation, whose bits are those of the operands
combined; BNOT's is 1, with the flag p, or 0, with z. -/
theorem bitwiseResults : Obligations.BitwiseResults := by
  intro s rd ra b hw
  refine ⟨exists_result_of_exec (ccSource_default hw _) rfl fun i _ => BitVec.getLsbD_and,
    exists_result_of_exec (ccSource_default hw _) rfl fun i _ => BitVec.getLsbD_or,
    exists_result_of_exec (ccSource_default hw _) rfl fun i _ => BitVec.getLsbD_xor,
    exists_result_of_exec (ccSource_default hw _) rfl fun i hi => ?not,
    _, rfl, ?bnot⟩
  case not => rw [BitVec.getLsbD_not, decide_eq_true hi, Bool.true_and]
  case bnot =>
    split_ifs with hzero
    · rw [beq_iff_eq.mpr hzero]
      exact State.writesRegFlags_of_int (ccSource_default hw .bnot) rd 1#64
    · rw [beq_eq_false_iff_ne.mpr hzero]
      exact State.writesRegFlags_of_int (ccSource_default hw .bnot) rd 0#64

/-! ### Shifts -/

/-- By default the count is the second operand modulo 64 (R222). -/
theorem shiftCount_of_lowSix {c : Config} (h : c.shiftAmount = .lowSix) (b : Cell) :
    shiftCount c b = b.toNat % 64 := by
  simp [shiftCount, h]

/-- An operand up to 63 is its own count under either choice of `SHIFT_AMOUNT` (R222). -/
theorem shiftCount_of_le (c : Config) {b : Cell} (hb : b.toNat ≤ 63) : shiftCount c b = b.toNat := by
  cases h : c.shiftAmount with
  | lowSix => rw [shiftCount_of_lowSix h, Nat.mod_eq_of_lt (Nat.lt_succ_of_le hb)]
  | other => simp [shiftCount, h, hb]

/-- Settles O28: in both cases the given amount is the shift count, and the shift by it is arithmetic with
a power of two. -/
theorem shiftResults : Obligations.ShiftResults := by
  intro s rd ra b k hw hk
  have hcount : shiftCount s.cfg (s.operand b) = k := by
    obtain ⟨hsix, rfl⟩ | ⟨hle, rfl⟩ := hk
    · exact shiftCount_of_lowSix hsix _
    · exact shiftCount_of_le _ hle
  subst hcount
  refine ⟨exists_result_of_exec (ccSource_default hw _) rfl ?left,
    exists_result_of_exec (ccSource_default hw _) rfl ?right⟩
  case left => rw [BitVec.toNat_shiftLeft, Nat.shiftLeft_eq]
  case right => rw [BitVec.toInt_sshiftRight, Int.shiftRight_eq_div_pow, Nat.cast_pow, Nat.cast_ofNat]

end Sys2Proof.Machine
end

section
/-! The compare instructions (R152, R155, R240, R241): what the end of a compare changes and leaves, the
ordering of two integers with its flags, and the ordering of two binary64 values. -/

namespace Sys2Proof.Machine

open Sys2Proof.Claims

/-! ### The frame of a compare -/

/-- The end of a compare changes its register and the flags, and nothing else (R155). -/
theorem State.writesRegFlags_writeCompare (s : State) (op : Op) (req : CC) (rd : Reg) (o : CmpOrder) :
    WritesRegFlags s (s.writeCompare op req rd o) rd (s.compareCell req o)
      (s.newCC op (s.compareCell req o) o) :=
  ⟨s.reg_writeCompare_same op req rd o, fun _ hq => State.reg_setReg_ne s _ hq, rfl, rfl, fun _ => rfl,
    rfl, rfl, rfl, rfl, rfl, rfl, rfl, rfl⟩

/-- An opcode with the flag source `ord` ends with the raw comparison in the flags, and in its register
1 or 0 for whether a requested flag is among them (R107, R155). -/
theorem State.writesRegFlags_of_ord {s : State} {op : Op} (h : s.cfg.ccSource op = some .ord)
    (req : CC) (rd : Reg) (o : CmpOrder) :
    WritesRegFlags s (s.writeCompare op req rd o) rd
      (if ccMatch req (ccOfOrd s.cfg o) then 1#64 else 0#64) (ccOfOrd s.cfg o) := by
  have hwrites := s.writesRegFlags_writeCompare op req rd o
  rwa [State.newCC_ord _ _ h] at hwrites

/-! ### The ordering of integers -/

section
variable (x y : Int)

theorem orderInt_eq_less_iff : orderInt x y = .less ↔ x < y := by
  unfold orderInt
  split_ifs <;> simp [*]

theorem orderInt_eq_equal_iff : orderInt x y = .equal ↔ x = y := by
  unfold orderInt
  split_ifs <;> simp <;> omega

theorem orderInt_eq_greater_iff : orderInt x y = .greater ↔ y < x := by
  unfold orderInt
  split_ifs <;> simp <;> omega

theorem orderInt_ne_unordered : orderInt x y ≠ .unordered := by
  unfold orderInt
  split_ifs <;> simp

/-- The raw flags of two integers are their three relations (R152, R240). -/
theorem ccOfOrd_orderInt (c : Config) :
    ccOfOrd c (orderInt x y) = ⟨decide (x < y), decide (x = y), decide (y < x)⟩ := by
  simp only [← orderInt_eq_less_iff x y, ← orderInt_eq_equal_iff x y, ← orderInt_eq_greater_iff x y]
  cases h : orderInt x y with
  | less | equal | greater => rfl
  | unordered => exact absurd h (orderInt_ne_unordered x y)

end

/-- Settles O29: the raw flags are the three relations of the integers, and `Match` finds a requested one
among them. -/
theorem integerCompareResults : Obligations.IntegerCompareResults := by
  intro s req rd ra b hw x y
  have hwrites := State.writesRegFlags_of_ord (ccSource_default hw .cmpI) req rd (orderInt x y)
  obtain ⟨-, hmatch, -⟩ := orderingFlagsAndMatch
  simp only [ccOfOrd_orderInt, hmatch, decide_eq_true_iff] at hwrites
  exact ⟨_, _, rfl, hwrites, fun h => if_pos h, fun h => if_neg h⟩

/-! ### The ordering of binary64 values -/

theorem fpOrder_of_fpValue {a b : Cell} {u v : FpVal} (ha : fpValue a = u) (hb : fpValue b = v) :
    fpOrder a b = u.order v := by
  rw [fpOrder, ha, hb]

/-- Two values are unordered where one is a NaN, and only there (R241). -/
theorem FpVal.order_eq_unordered_iff (u v : FpVal) : u.order v = .unordered ↔ u = .nan ∨ v = .nan := by
  cases u with
  | nan => exact iff_of_true rfl (.inl rfl)
  | inf s =>
    cases v with
    | nan => exact iff_of_true rfl (.inr rfl)
    | inf t => cases s <;> cases t <;> decide
    | fin t k => cases s <;> simp [FpVal.order]
  | fin s j =>
    cases v with
    | nan => exact iff_of_true rfl (.inr rfl)
    | inf t => cases t <;> simp [FpVal.order]
    | fin t k => exact iff_of_false (orderInt_ne_unordered _ _) (by simp)

/-- Two values exchanged exchange less and greater (R241). -/
theorem FpVal.order_eq_less_iff (u v : FpVal) : u.order v = .less ↔ v.order u = .greater := by
  cases u with
  | nan => cases v <;> simp [FpVal.order]
  | inf s =>
    cases v with
    | nan => simp [FpVal.order]
    | inf t => cases s <;> cases t <;> decide
    | fin t k => cases s <;> simp [FpVal.order]
  | fin s j =>
    cases v with
    | nan => simp [FpVal.order]
    | inf t => cases t <;> simp [FpVal.order]
    | fin t k => exact (orderInt_eq_less_iff _ _).trans (orderInt_eq_greater_iff _ _).symm

/-- A value that is no NaN equals itself (R241). -/
theorem FpVal.order_self {u : FpVal} (h : u ≠ .nan) : u.order u = .equal := by
  cases u with
  | nan => exact absurd rfl h
  | inf s => exact if_pos rfl
  | fin s k => exact (orderInt_eq_equal_iff _ _).mpr rfl

theorem fpOrder_eq_unordered_iff (a b : Cell) :
    fpOrder a b = .unordered ↔ isNan a = true ∨ isNan b = true := by
  rw [isNan_iff_fpValue, isNan_iff_fpValue]
  exact FpVal.order_eq_unordered_iff _ _

/-- Settles O24: each clause is the ordering of the values that the cells encode. -/
theorem floatOrdering : Obligations.FloatOrdering := by
  refine ⟨fpOrder_eq_unordered_iff, fun a b => FpVal.order_eq_less_iff _ _,
    fun a ha => FpVal.order_self (mt (isNan_iff_fpValue a).mpr (Bool.eq_false_iff.mp ha)),
    fun s t => ?zeros, fun b t k hb => ⟨?below, ?above⟩,
    fpOrder_of_fpValue (fpValue_fpInf true) (fpValue_fpInf false), fun a b s t j k ha hb => ?finite⟩
  case zeros =>
    rw [fpOrder_of_fpValue (fpValue_fpZero s) (fpValue_fpZero t)]
    cases s <;> cases t <;> rfl
  case below => exact fpOrder_of_fpValue (fpValue_fpInf true) hb
  case above => exact fpOrder_of_fpValue (fpValue_fpInf false) hb
  case finite =>
    rw [fpOrder_of_fpValue ha hb]
    exact ⟨orderInt_eq_less_iff _ _, orderInt_eq_equal_iff _ _⟩

/-- Settles O30: by the end of a compare; with a NaN the ordering is unordered, which sets no flag by
default, and `Match` finds none. -/
theorem floatCompareResults : Obligations.FloatCompareResults := by
  intro s req rd ra b hw raw
  have hwrites := State.writesRegFlags_of_ord (ccSource_default hw .cmpF) req rd
    (fpOrder (s.reg ra) (s.operand b))
  refine ⟨⟨_, rfl, hwrites⟩, fun hnan hc => ⟨_, rfl, ?_⟩⟩
  obtain ⟨hccOfOrd, -, -, hnoMatch, -⟩ := orderingFlagsAndMatch
  obtain ⟨-, -, -, -, hunordered⟩ := hccOfOrd s.cfg
  have hraw : ccOfOrd s.cfg (fpOrder (s.reg ra) (s.operand b)) = CC.none :=
    (fpOrder_eq_unordered_iff _ _).mpr hnan ▸ hunordered hc
  rwa [hraw, hnoMatch] at hwrites

end Sys2Proof.Machine
end

section
/-! The conversions (R243, R244): a binary64 from its magnitude bits, integers up to 2^53 as exact values,
and what ITOF and FTOI write. -/

namespace Sys2Proof.Machine

open Sys2Proof.Claims

/-! ### Reading a cell that is given by its magnitude bits -/

theorem getLsbD_fpCell (neg : Bool) {m : Nat} (hm : m < 2 ^ 63) : (fpCell neg m).getLsbD 63 = neg := by
  rw [← BitVec.msb_eq_getLsbD_last, BitVec.msb_eq_decide, fpCell, BitVec.toNat_ofNat]
  cases neg <;> simp <;> omega

theorem magBits_fpCell (neg : Bool) {m : Nat} (hm : m < 2 ^ 63) : magBits (fpCell neg m) = m := by
  rw [magBits, fpCell, BitVec.toNat_ofNat]
  split_ifs <;> omega

/-- Magnitude bits below those of infinity encode the finite value of their units (R9). -/
theorem fpValue_fpCell (neg : Bool) {m : Nat} (hm : m < fpInfMag) :
    fpValue (fpCell neg m) = .fin neg (magUnits m) := by
  have hexp : m / 2 ^ 52 ≠ 2047 := by
    unfold fpInfMag at hm
    omega
  have hlt : m < 2 ^ 63 := hm.trans (by decide)
  unfold fpValue
  dsimp only
  rw [toNat_exponent, toNat_fraction, getLsbD_fpCell neg hlt, magBits_fpCell neg hlt, if_neg hexp]
  rfl

/-! ### Small integers are exact -/

/-- The subnormals and the first normal binade are spaced by one unit: magnitude bits up to 2^53 are
their own number of units (R9). -/
theorem magUnits_of_le {n : Nat} (h : n ≤ 2 ^ 53) : magUnits n = n := by
  cases n with
  | zero => rfl
  | succ g =>
    have hsig : IsSignificand 0 g := ⟨h, .inl rfl⟩
    have hunits := magUnits_magOf_succ hsig
    simpa [magOf] using hunits

/-- Twice the units of a significand are those of another: in the next binade, or of its double where it
is subnormal (R9). -/
theorem exists_magUnits_eq_mul_two (m : Nat) : ∃ q, magUnits q = magUnits m * 2 := by
  obtain ⟨e, g, h, rfl⟩ := exists_significand m
  rw [magUnits_magOf h]
  obtain ⟨hlt, hleast⟩ := h
  by_cases hnormal : 2 ^ 52 ≤ g
  · exact ⟨magOf (e + 1) g, by rw [magUnits_magOf ⟨hlt, .inr hnormal⟩, pow_succ, mul_assoc]⟩
  · obtain rfl : e = 0 := by omega
    have hdouble : g * 2 < 2 ^ 53 := by omega
    exact ⟨magOf 0 (g * 2), by rw [magUnits_magOf ⟨hdouble, .inl rfl⟩, mul_right_comm]⟩

theorem exists_magUnits_eq_mul_two_pow (m k : Nat) : ∃ q, magUnits q = magUnits m * 2 ^ k := by
  induction k with
  | zero => exact ⟨m, (Nat.mul_one _).symm⟩
  | succ k ih =>
    obtain ⟨q, hq⟩ := ih
    obtain ⟨p, hp⟩ := exists_magUnits_eq_mul_two q
    exact ⟨p, by rw [hp, hq, pow_succ, mul_assoc]⟩

/-- An integer up to 2^53, counted in units of 2^-1074, is the magnitude of a finite binary64 (R9). -/
theorem exists_magUnits_eq_integer {n : Nat} (h : n ≤ 2 ^ 53) :
    ∃ m, m < fpInfMag ∧ magUnits m = n * 2 ^ 1074 := by
  obtain ⟨m, hm⟩ := exists_magUnits_eq_mul_two_pow n 1074
  rw [magUnits_of_le h] at hm
  refine ⟨m, magUnits_strictMono.lt_iff_lt.mp ?_, hm⟩
  rw [hm, magUnits_fpInfMag]
  exact Nat.mul_lt_mul_of_le_of_lt h (by gcongr <;> decide) (by decide)

theorem signed_natAbs (v : Int) : signed (decide (v < 0)) v.natAbs = v := by
  simp only [signed, decide_eq_true_iff]
  split_ifs <;> omega

/-- The binary64 of an integer of magnitude up to 2^53 is exact in every rounding (R243). -/
theorem fpValue_fpOfInt (r : Rounding) {v : Int} (h : v.natAbs ≤ 2 ^ 53) :
    fpValue (fpOfInt r v) = .fin (decide (v < 0)) (v.natAbs * 2 ^ 1074) := by
  obtain ⟨m, hfin, hm⟩ := exists_magUnits_eq_integer h
  have hround := roundMag_magUnits r (decide (v < 0)) Nat.one_pos hfin
  rw [Nat.mul_one, hm] at hround
  rw [fpOfInt, fpUnit, fpRound, hround, fpValue_fpCell _ hfin, hm]

/-! ### Truncation -/

theorem fits64_iff_le (v : Int) : fits64 v = true ↔ -2 ^ 63 ≤ v ∧ v ≤ 2 ^ 63 - 1 := by
  rw [fits64_iff, Int.le_sub_one_iff]

/-- FTOI gives the truncated value where it fits (R244). -/
theorem fpToInt_of_fin {a : Cell} {neg : Bool} {k : Nat} (h : fpValue a = .fin neg k) :
    fpToInt a = if fits64 (signed neg (k / 2 ^ 1074)) then
      some (BitVec.ofInt 64 (signed neg (k / 2 ^ 1074))) else none := by
  rw [fpToInt, h]
  rfl

/-- FTOI of a NaN or an infinity is left open (R244). -/
theorem fpToInt_of_not_fin {a : Cell} (h : ∀ neg k, fpValue a ≠ .fin neg k) : fpToInt a = none := by
  unfold fpToInt
  cases ha : fpValue a with
  | nan | inf => rfl
  | fin neg k => exact absurd ha (h neg k)

/-- Settles O26: the binary64 is exact, and the integer it is truncated to fits. -/
theorem smallIntegersConvertExactly : Obligations.SmallIntegersConvertExactly := by
  intro r v h
  have hfits : fits64 v = true := by
    rw [fits64_iff]
    omega
  rw [fpToInt_of_fin (fpValue_fpOfInt r h), Nat.mul_div_cancel _ (Nat.two_pow_pos _), signed_natAbs,
    if_pos hfits]

/-! ### The instructions -/

/-- FTOI of an operand whose result is left open completes with one free value drawn (R244, log
entry 13). -/
theorem writesFree_of_exec_ftoi {s : State} {rd ra : Reg} (hsrc : s.cfg.ccSource .ftoi = none)
    (h : fpToInt (s.reg ra) = none) :
    ∃ t, exec (.ftoi rd ra) s = .next t ∧ WritesFree s t rd fun _ => True := by
  refine ⟨s.writeFtoi rd (fpToInt (s.reg ra)), rfl, ?_⟩
  rw [h]
  exact State.writesFree_of_none hsrc rd trivial

/-- Settles O25: by the write of a result, and for FTOI by whether the truncated value fits. -/
theorem conversionResults : Obligations.ConversionResults := by
  intro s rd ra hw
  have hitof : s.cfg.ccSource .itof = none := ccSource_default hw .itof
  have hftoi : s.cfg.ccSource .ftoi = none := ccSource_default hw .ftoi
  refine ⟨⟨_, rfl, State.writesReg_of_none hitof rd _⟩,
    fun neg k hk hlo hhi => ⟨s.writeFtoi rd (fpToInt (s.reg ra)), rfl, ?fits⟩,
    fun neg k hk hout => writesFree_of_exec_ftoi hftoi ?out,
    fun hspecial => writesFree_of_exec_ftoi hftoi (fpToInt_of_not_fin hspecial)⟩
  case fits =>
    have hfits : fits64 (signed neg (k / 2 ^ 1074)) = true := (fits64_iff_le _).mpr ⟨hlo, hhi⟩
    rw [fpToInt_of_fin hk, if_pos hfits]
    exact State.writesReg_of_none hftoi rd _
  case out =>
    have hfits : ¬fits64 (signed neg (k / 2 ^ 1074)) = true := by
      rwa [fits64_iff_le, not_and_or, not_le, not_le]
    rw [fpToInt_of_fin hk, if_neg hfits]

end Sys2Proof.Machine
end

section
/-! The loads and stores with one effective address (R260 to R262, R265 to R271, R300 to R302), PUSH and
POP (R263, R264): each on both sides of its checks, with what it changes and leaves; and that a POP undoes
a PUSH. -/

namespace Sys2Proof.Machine

open Sys2Proof.Claims

/-! ### The shared ends of loads and stores -/

/-- An instruction that is no flag writer by default ends, by default and wherever it is outside
`CC_WRITERS`, with the flags it began with (R107). -/
theorem keepsFlags_newCC {s : State} {i : Instr}
    (hdefault : s.cfg.ccWriters = Config.defaultCcWriters → s.cfg.ccSource i.op = none)
    (r : Cell) (o : CmpOrder) : KeepsFlags i s (s.newCC i.op r o) :=
  fun hkeep => s.newCC_none r o (hkeep.elim hdefault id)

/-- An instruction whose meaning is a guarded load into its destination loads from that address (R55). -/
theorem loadsFrom_of_exec {s : State} {i : Instr} {rd : Reg} {ea : Cell}
    (hdefault : s.cfg.ccWriters = Config.defaultCcWriters → s.cfg.ccSource i.op = none)
    (hexec : exec i s = .next (s.withLoad ea (s.writeResult i.op rd))) : LoadsFrom i s rd ea := by
  refine ⟨fun hin => ⟨_, _, hexec.trans (congrArg _ (State.withLoad_of_lt hin _)),
      s.writesRegFlags_writeResult i.op rd _, keepsFlags_newCC hdefault _ _⟩,
    fun hout => ⟨_, hexec, State.withLoad_of_le hout _⟩⟩

/-- An instruction whose meaning is a guarded store of its data register stores to that address (R55). -/
theorem storesTo_of_exec {s : State} {i : Instr} {rs : Reg} {ea : Cell}
    (hexec : exec i s = .next (s.store ea (s.reg rs))) : StoresTo i s rs ea := by
  refine ⟨fun hin => ⟨_, hexec.trans (congrArg _ (State.store_of_lt hin _)), s.writesCell_setCell _ _⟩,
    fun hout => ⟨_, hexec, State.store_of_le hout _⟩⟩

/-- Where `AP_REG` names the register `p`, LDAP and STAP go on with the address `x[p] + I` (R22, R265). -/
theorem State.withApAddr_of_apReg {s : State} {p : Reg} (h : s.cfg.apReg = p.toNat) (b : Operand)
    (k : Cell → State) : s.withApAddr b k = k (s.reg p + s.operand b) := by
  have hp : apRegister s.cfg = p := by rw [apRegister, h, BitVec.ofNat_toNat, BitVec.setWidth_eq]
  rw [State.withApAddr_of_lt (h ▸ p.isLt), hp, State.pointerAddr]

/-- Settles O31: each form is a guarded load at its own address. -/
theorem loadsReadTheAddressedCell : Obligations.LoadsReadTheAddressedCell := fun _ _ _ _ =>
  ⟨loadsFrom_of_exec (ccSource_default · .ldr) rfl, loadsFrom_of_exec (ccSource_default · .ldsp) rfl,
    loadsFrom_of_exec (ccSource_default · .ldfp) rfl,
    fun _ hp => loadsFrom_of_exec (ccSource_default · .ldap)
      (congrArg _ (State.withApAddr_of_apReg hp _ _)),
    loadsFrom_of_exec (ccSource_default · .ld) rfl⟩

/-- Settles O32: each form is a guarded store at its own address. -/
theorem storesWriteTheAddressedCell : Obligations.StoresWriteTheAddressedCell := fun _ _ _ _ =>
  ⟨storesTo_of_exec rfl, storesTo_of_exec rfl, storesTo_of_exec rfl,
    fun _ hp => storesTo_of_exec (congrArg _ (State.withApAddr_of_apReg hp _ _)), storesTo_of_exec rfl⟩

/-! ### PUSH -/

/-- PUSH out of range traps with R14 as it was: the check precedes the increment (R263). -/
theorem State.pushed_of_le {s : State} (h : s.cfg.memCells ≤ s.pushAddr.toNat) (rs : Reg) :
    s.pushed rs = s.takeTrap .memOutOfRange s.pushAddr := by
  simp [State.pushed, State.inMem_of_le h]

/-- Settles O35: in range the register write and the cell write each have their own frame. -/
theorem pushIncrementsThenStores : Obligations.PushIncrementsThenStores := by
  intro s rs
  refine ⟨fun hin => ⟨_, congrArg Host.Outcome.next (State.pushed_of_lt hin rs), ?_⟩,
    fun hout => ⟨_, rfl, State.pushed_of_le hout rs⟩⟩
  exact ⟨s.reg_setReg_same _ _, fun _ hq => s.reg_setReg_ne _ hq, State.cell_setCell_same _ _ _,
    fun _ hc => State.cell_setCell_ne _ _ hc, rfl, rfl, rfl, rfl, rfl, rfl, rfl, rfl, rfl, rfl⟩

/-! ### POP -/

/-- POP with R14 = 0 traps before it looks at memory (R264, R407). -/
theorem exec_pop_of_zero {s : State} (h : s.reg Reg.sp = 0#64) (rd : Reg) :
    exec (.pop rd) s = .next (s.takeTrap .stackUnderflow s.instrAddr) :=
  congrArg _ (if_pos h)

/-- POP with R14 not 0 is a guarded load of the cell that R14 names (R264). -/
theorem exec_pop_of_ne_zero {s : State} (h : s.reg Reg.sp ≠ 0#64) (rd : Reg) :
    exec (.pop rd) s = .next (s.withLoad (s.reg Reg.sp) (s.popWith rd)) :=
  congrArg _ (if_neg h)

/-- POP out of range traps (R264). -/
theorem exec_pop_of_le {s : State} (h : s.reg Reg.sp ≠ 0#64)
    (hout : s.cfg.memCells ≤ (s.reg Reg.sp).toNat) (rd : Reg) :
    exec (.pop rd) s = .next (s.takeTrap .memOutOfRange (s.reg Reg.sp)) := by
  rw [exec_pop_of_ne_zero h, State.withLoad_of_le hout]

/-- POP in range ends with the cell that R14 names (R264). -/
theorem exec_pop_of_lt {s : State} (h : s.reg Reg.sp ≠ 0#64)
    (hin : (s.reg Reg.sp).toNat < s.cfg.memCells) (rd : Reg) :
    exec (.pop rd) s = .next (s.popWith rd (s.cell (s.reg Reg.sp).toNat)) := by
  rw [exec_pop_of_ne_zero h, State.withLoad_of_lt hin]

/-- POP into another register decrements the stack pointer that was there (R264). -/
theorem State.reg_sp_popWith_of_ne (s : State) {rd : Reg} (h : rd ≠ Reg.sp) (v : Cell) :
    (s.popWith rd v).reg Reg.sp = s.reg Reg.sp - 1#64 := by
  simp [State.popWith, State.reg_writeResult_ne _ _ _ h.symm]

/-- POP leaves every register but its destination and R14 (R264). -/
theorem State.reg_popWith_ne (s : State) {rd q : Reg} (v : Cell) (hrd : q ≠ rd) (hsp : q ≠ Reg.sp) :
    (s.popWith rd v).reg q = s.reg q := by
  simp [State.popWith, State.reg_setReg_ne _ _ hsp, State.reg_writeResult_ne _ _ _ hrd]

/-- By default, and wherever POP is outside `CC_WRITERS`, the end of POP keeps the flags (R107). -/
theorem keepsFlags_popWith (s : State) (rd : Reg) (v : Cell) :
    KeepsFlags (.pop rd) s (s.popWith rd v).cc :=
  keepsFlags_newCC (i := .pop rd) (ccSource_default · .pop) v _

/-- Settles O36: the two traps in the order of the checks, then POP R14 apart from the other
destinations. -/
theorem popLoadsThenDecrements : Obligations.PopLoadsThenDecrements := by
  intro s rd a
  refine ⟨fun hzero => ⟨_, exec_pop_of_zero hzero rd, rfl⟩,
    fun hne hout => ⟨_, exec_pop_of_le hne hout rd, rfl⟩,
    fun hne hin hrd => ⟨_, _, exec_pop_of_lt hne hin rd, ?popSp,
      keepsFlags_popWith s rd (s.cell a.toNat)⟩,
    fun hne hin hrd => ⟨_, exec_pop_of_lt hne hin rd, ?popOther⟩⟩
  case popSp =>
    subst hrd
    exact ⟨s.reg_popWith_sp _, fun _ hq => s.reg_popWith_ne _ hq hq, rfl, rfl, fun _ => rfl, rfl,
      rfl, rfl, rfl, rfl, rfl, rfl, rfl⟩
  case popOther =>
    exact ⟨s.reg_popWith_of_ne hrd _, s.reg_sp_popWith_of_ne hrd _,
      fun _ hq hsp => s.reg_popWith_ne _ hq hsp, keepsFlags_popWith s rd _, rfl, fun _ => rfl, rfl,
      rfl, rfl, rfl, rfl, rfl, rfl, rfl⟩

/-! ### PUSH and then POP -/

/-- Settles O37: after the PUSH of O35 the checks of the POP of O36 pass, and it reads the pushed cell. -/
theorem pushThenPopRestores : Obligations.PushThenPopRestores := by
  intro s rs rd hrs hrd hne hin
  obtain ⟨hpushes, -⟩ := pushIncrementsThenStores s rs
  obtain ⟨t, hpush, htsp, htregs, htcell, -, htcc, -, -, htcfg, -⟩ := hpushes hin
  obtain ⟨-, -, -, hpops⟩ := popLoadsThenDecrements t rd
  obtain ⟨u, hpop, hurd, husp, huregs, hucc, -⟩ :=
    hpops (htsp ▸ hne) (by rwa [htsp, htcfg]) hrd
  have hsp : u.reg 14#4 = s.reg 14#4 := by rw [husp, htsp, BitVec.add_sub_cancel]
  refine ⟨t, u, hpush, hpop, hsp, ?value, fun q hq => ?others, fun hkeep => ?flags⟩
  case value => rw [hurd, htsp, htcell, if_neg hrs]
  case others =>
    by_cases hqsp : q = 14#4
    · exact hqsp ▸ hsp
    · exact (huregs q hq hqsp).trans (htregs q hqsp)
  case flags => exact (hucc (htcfg.symm ▸ hkeep)).trans htcc

end Sys2Proof.Machine
end

section
/-! The conditional jump (R290, R293): what JMP does on each side of `Match`. -/

namespace Sys2Proof.Machine

/-- A taken jump changes the counter alone, to `npc + I` (R290). -/
theorem exec_jmp_of_match {s : State} {req : CC} (h : ccMatch req s.cc = true) (b : Operand) :
    exec (.jmp req b) s = .next { s with pc := s.pc + s.operand b } :=
  congrArg Host.Outcome.next (if_pos h)

/-- A jump that is not taken behaves as NOP (R290, R293). -/
theorem exec_jmp_of_not_match {s : State} {req : CC} (h : ¬ ccMatch req s.cc = true) (b : Operand) :
    exec (.jmp req b) s = .next s :=
  congrArg Host.Outcome.next (if_neg h)

/-- Settles O41: `Match` says whether a requested flag is set (R154), and it finds none in an empty
request or in clear flags. -/
theorem jumpIsTakenOnARequestedFlag : Obligations.JumpIsTakenOnARequestedFlag := by
  intro s req b
  obtain ⟨-, hmatch, hnoRequest, hclear, -⟩ := orderingFlagsAndMatch
  refine ⟨fun h => exec_jmp_of_match ((hmatch req s.cc).mpr h) b,
    fun h => exec_jmp_of_not_match (mt (hmatch req s.cc).mp h) b,
    fun h => exec_jmp_of_not_match (Bool.eq_false_iff.mp ?noMatch) b⟩
  case noMatch =>
    obtain hreq | hcc := h
    · rw [hreq, hnoRequest]
    · rw [hcc, hclear]

end Sys2Proof.Machine
end

section
/-! The indirect load and store (R300, R303, R304): with the pointer cell in range each is an access at the
cell it names, and with the pointer cell out of range it traps before it comes to a second address. -/

namespace Sys2Proof.Machine

/-- LDI with its pointer cell in range is a guarded load at the cell it names (R303). -/
theorem exec_ldi_of_lt {s : State} {b : Operand} (h : (s.pcRelAddr b).toNat < s.cfg.memCells) (rd : Reg) :
    exec (.ldi rd b) s = .next (s.withLoad (s.cell (s.pcRelAddr b).toNat) (s.writeResult .ldi rd)) :=
  congrArg Host.Outcome.next (State.withLoad_of_lt h _)

/-- STI with its pointer cell in range is a guarded store at the cell it names (R304). -/
theorem exec_sti_of_lt {s : State} {b : Operand} (h : (s.pcRelAddr b).toNat < s.cfg.memCells) (rs : Reg) :
    exec (.sti rs b) s = .next (s.store (s.cell (s.pcRelAddr b).toNat) (s.reg rs)) :=
  congrArg Host.Outcome.next (State.withLoad_of_lt h _)

/-- LDI with its pointer cell out of range traps with the index of the pointer cell (R55, R303). -/
theorem exec_ldi_of_le {s : State} {b : Operand} (h : s.cfg.memCells ≤ (s.pcRelAddr b).toNat) (rd : Reg) :
    exec (.ldi rd b) s = .next (s.takeTrap .memOutOfRange (s.pcRelAddr b)) :=
  congrArg Host.Outcome.next (State.withLoad_of_le h _)

/-- STI with its pointer cell out of range traps with the index of the pointer cell (R55, R304). -/
theorem exec_sti_of_le {s : State} {b : Operand} (h : s.cfg.memCells ≤ (s.pcRelAddr b).toNat) (rs : Reg) :
    exec (.sti rs b) s = .next (s.takeTrap .memOutOfRange (s.pcRelAddr b)) :=
  congrArg Host.Outcome.next (State.withLoad_of_le h _)

/-- Settles O33: past the pointer cell the instruction is a load or store with one address, as in O31 and
O32, at the cell the pointer names. -/
theorem indirectAccessesFollowThePointer : Obligations.IndirectAccessesFollowThePointer := by
  intro s r b ea
  refine ⟨fun hin => ⟨?load, ?store⟩, fun hout => ⟨?loadTrap, ?storeTrap⟩⟩
  case load => exact loadsFrom_of_exec (ccSource_default · .ldi) (exec_ldi_of_lt hin r)
  case store => exact storesTo_of_exec (exec_sti_of_lt hin r)
  case loadTrap => exact ⟨_, exec_ldi_of_le hout r, rfl⟩
  case storeTrap => exact ⟨_, exec_sti_of_le hout r, rfl⟩

end Sys2Proof.Machine
end

section
/-! The fatal traps of a step (R400 to R413): where a trap of a RUNNING machine comes from, what the step
that takes it changes, and the condition of each cause. -/

namespace Sys2Proof.Machine

open Sys2Proof.Claims

/-! ### Where a trap comes from -/

/-- An instruction that leaves a RUNNING machine FAULTED has raised that trap and done nothing else
(R400, R412). -/
theorem Effect.raises_of_faulted {s t : State} {i : Instr} {c : TrapCause} {info : Cell}
    (h : Effect s i t) (hr : s.runState = .running) (ht : t.runState = .faulted c info) :
    Raises s i c info ∧ t = s.takeTrap c info := by
  cases h with
  | trap hraise =>
    cases ht
    exact ⟨hraise, rfl⟩
  | halt => cases ht
  | _ => cases hr.symm.trans ht

/-- The inversion of a trapping step: the trap comes from the fetch, from an unassigned opcode under the
trap policy, or from the fetched instruction (R400, R411). -/
theorem step_trap_cases {s t : State} {c : TrapCause} {info : Cell} (hr : s.runState = .running)
    (h : step s = .next t) (ht : t.runState = .faulted c info) :
    (s.fetch = none ∧ c = .memOutOfRange ∧ info = s.pc ∧ t = s.takeTrap .memOutOfRange s.pc)
      ∨ (s.cfg.illegalPolicy = .trap ∧ s.fetch = some info ∧ (∃ r, decode s.cfg info = .error r)
          ∧ c = .illegalOpcode ∧ t = s.advance.takeTrap c info)
      ∨ ∃ j, Fetches s j ∧ Raises s.advance j c info ∧ t = s.advance.takeTrap c info := by
  obtain ⟨hhalted, -⟩ | ⟨-, hf, rfl⟩ | ⟨w, r, -, hf, hd, rfl⟩ | ⟨j, hj, hexec⟩ := step_cases h
  · cases hr.symm.trans hhalted
  · cases ht
    exact .inl ⟨hf, rfl, rfl, rfl⟩
  · obtain ⟨-, hskip⟩ | ⟨hp, htrap⟩ := s.advance.illegal_cases w
    · rw [hskip] at ht
      cases hr.symm.trans ht
    · rw [htrap] at ht
      cases ht
      exact .inr (.inl ⟨hp, hf, ⟨r, hd⟩, rfl, htrap⟩)
  · exact .inr (.inr ⟨j, hj, (exec_effect hexec).raises_of_faulted hr ht⟩)

/-- Settles O52: each of the three origins of a trap takes it in the state before the step or in the one
that the fetch step left. -/
theorem trapsArePrecise : Obligations.TrapsArePrecise := by
  intro s t c info hr h ht
  obtain ⟨hf, hc, hinfo, heq⟩ | ⟨-, hf, -, -, heq⟩ | ⟨j, ⟨-, w, hf, -⟩, -, heq⟩ :=
    step_trap_cases hr h ht
  · exact .inr ⟨hf, hc, hinfo, heq⟩
  · exact .inl ⟨Option.ne_none_iff_exists'.mpr ⟨info, hf⟩, heq⟩
  · exact .inl ⟨Option.ne_none_iff_exists'.mpr ⟨w, hf⟩, heq⟩

/-! ### The condition of each cause -/

/-- In the state that the fetch step left, the executing instruction stands at the counter before it
(R25, R207). -/
@[simp] theorem State.instrAddr_advance (s : State) : s.advance.instrAddr = s.pc :=
  BitVec.add_sub_cancel s.pc 1#64

/-- The advance of the counter changes no exact integer result (R200). -/
@[simp] theorem exactResult_advance (s : State) (i : Instr) :
    exactResult s.advance i = exactResult s i := by
  cases i <;> simp [exactResult]

/-- An index outside memory is at or above `MEM_CELLS` (R55). -/
theorem State.le_of_inMem_eq_false {s : State} {a : Cell} (h : s.inMem a = false) :
    s.cfg.memCells ≤ a.toNat :=
  Nat.not_lt.mp (of_decide_eq_false h)

theorem fits64_eq_false_iff (v : Int) : fits64 v = false ↔ v < -2 ^ 63 ∨ 2 ^ 63 ≤ v := by
  rw [← Bool.not_eq_true, fits64_iff]
  omega

/-- Of a word that is no instruction the output `valid` of `DEC` is 0 (R142). -/
theorem valid_eq_false_of_decode {c : Config} {w : Word} {r : DecodeReject}
    (h : decode c w = .error r) : (decOutput c w).valid = false := by
  simp [decOutput, (exists_decode_eq_error_iff c w).mp ⟨r, h⟩]

/-- Settles O53: the origin of the trap fixes the cause, and of an instruction `Raises` has the condition
and the info of each. -/
theorem causesAriseOnlyAsListed : Obligations.CausesAriseOnlyAsListed := by
  intro s t c info hr h ht
  obtain ⟨hf, rfl, rfl, -⟩ | ⟨hp, hf, ⟨r, hd⟩, rfl, -⟩ | ⟨j, hj, hraise, -⟩ := step_trap_cases hr h ht
  · exact ⟨fun _ => ⟨s.fetch_eq_none_iff.mp hf, .inl ⟨hf, rfl⟩⟩, nofun, nofun, nofun, nofun, nofun,
      nofun⟩
  · exact ⟨nofun, nofun, nofun, nofun, nofun, fun _ => ⟨hp, hf, valid_eq_false_of_decode hd⟩, nofun⟩
  · cases hraise with
    | memOutOfRange hop ha =>
      exact ⟨fun _ => ⟨State.le_of_inMem_eq_false (s := s) ha, .inr ⟨j, hj, hop⟩⟩, nofun, nofun, nofun,
        nofun, nofun, nofun⟩
    | divideByZero hb =>
      rw [State.operand_advance] at hb
      exact ⟨nofun, fun _ => ⟨_, _, _, hj, hb, s.instrAddr_advance⟩, nofun, nofun, nofun, nofun, nofun⟩
    | divideOverflow ha hb =>
      rw [State.operand_advance, eq_allOnes_iff] at hb
      exact ⟨nofun, nofun, fun _ => ⟨_, _, _, hj, (eq_intMin_iff _).mp ha, hb, s.instrAddr_advance⟩,
        nofun, nofun, nofun, nofun⟩
    | stackUnderflow hsp =>
      exact ⟨nofun, nofun, nofun, fun _ => ⟨_, hj, hsp, s.instrAddr_advance⟩, nofun, nofun, nofun⟩
    | registerOutOfRange hop hap =>
      exact ⟨nofun, nofun, nofun, nofun, fun _ => ⟨Nat.not_lt.mp hap, rfl, j, hj, hop⟩, nofun, nofun⟩
    | integerOverflow hv hfits hpolicy =>
      rw [exactResult_advance] at hv
      exact ⟨nofun, nofun, nofun, nofun, nofun, nofun,
        fun _ => ⟨hpolicy, s.instrAddr_advance, j, _, hj, hv, (fits64_eq_false_iff _).mp hfits⟩⟩

end Sys2Proof.Machine
end

section
/-! The character streams and HALT (R37, R340 to R347): the equations of PUTC, GETC, NOP and HALT, and what
every instruction does to the streams. -/

namespace Sys2Proof.Machine

open Sys2Proof.Claims

/-! ### The equations of the instructions -/

/-- The low byte that PUTC sends (R340). -/
theorem extractLsb'_zero_eight (v : Cell) : v.extractLsb' 0 8 = v.setWidth 8 :=
  (BitVec.setWidth_eq_extractLsb' (by decide)).symm

/-- PUTC appends the low byte of its register to the output (R340). -/
theorem exec_putc (s : State) (ra : Reg) :
    exec (.putc ra) s = .next { s with output := s.output ++ [(s.reg ra).setWidth 8] } :=
  congrArg (fun b => Host.Outcome.next (s.putByte b)) (extractLsb'_zero_eight _)

/-- GETC with a byte available takes it, zero-extended (R341). -/
theorem exec_getc_of_cons {s : State} {b : Byte} {rest : List Byte} (h : s.input = b :: rest)
    (rd : Reg) :
    exec (.getc rd) s = .next ((s.gotByte b rest).writeResult .getc rd (b.setWidth 64)) := by
  simp [exec, execGetc, h]

/-- GETC with no byte available waits while the input is open or where `GETC_EOF` blocks (R342). -/
theorem exec_getc_of_wait {s : State} (h : s.input = [])
    (hwait : s.inputEnded = false ∨ s.cfg.getcEof = .block) (rd : Reg) :
    exec (.getc rd) s = .next s.waitInput := by
  obtain hopen | hblock := hwait
  · simp [exec, execGetc, h, hopen]
  · simp [exec, execGetc, h, hblock]

/-- GETC at the end of input is refused where `GETC_EOF` refuses (R341, log entry 11). -/
theorem exec_getc_of_refuse {s : State} (h : s.input = []) (hended : s.inputEnded = true)
    (hrefuse : s.cfg.getcEof = .refuse) (rd : Reg) : exec (.getc rd) s = .refused .endOfInput := by
  simp [exec, execGetc, h, hended, hrefuse]

/-- A wait undoes the advance of the counter (R342, log entry 10). -/
@[simp] theorem State.waitInput_advance (s : State) : s.advance.waitInput = s :=
  congrArg (fun pc => { s with pc := pc }) (BitVec.add_sub_cancel s.pc 1#64)

/-- Settles O43: the last clause is the step of a HALTED machine. -/
theorem putcNopAndHaltResults : Obligations.PutcNopAndHaltResults := by
  refine fun s ra => ⟨exec_putc s ra, rfl, rfl, fun hhalted t h => ?_⟩
  rw [step_of_halted hhalted] at h
  cases h
  rfl

/-- Settles O44: the byte leaves the input and is then written as a result. -/
theorem getcTakesTheNextByte : Obligations.GetcTakesTheNextByte := by
  intro s rd b rest hin
  obtain ⟨hreg, hregs, -, hpc, hmem, hdraws, hcfg, hrun, hseen, hinput, hended, hread, hout⟩ :=
    (s.gotByte b rest).writesRegFlags_writeResult .getc rd (b.setWidth 64)
  refine ⟨_, exec_getc_of_cons hin rd, ?value, hregs, hinput, hread, hout, ?flags, hpc, hmem, hdraws,
    hcfg, hrun, hseen, hended⟩
  case value =>
    rw [hreg]
    exact BitVec.toNat_setWidth_of_le (by decide)
  case flags => exact keepsFlags_newCC (s := s) (i := .getc rd) (ccSource_default · .getc) _ _

/-- Settles O45: in the state that the fetch step left there is still no byte, and the wait undoes the
advance. -/
theorem getcWaitsForInput : Obligations.GetcWaitsForInput := by
  intro s rd hi hin
  rw [step_of_fetches hi]
  refine ⟨fun hwait => ?wait, fun hended hrefuse => ?refuse⟩
  case wait => rw [exec_getc_of_wait (s := s.advance) hin hwait, State.waitInput_advance]
  case refuse => exact exec_getc_of_refuse (s := s.advance) hin hended hrefuse rd

/-! ### The streams over a step -/

section
variable {s t : State} {i : Instr}

/-- No instruction changes the bytes read followed by the bytes left (R347). -/
theorem Effect.inputRead_append_input (h : Effect s i t) :
    t.inputRead ++ t.input = s.inputRead ++ s.input := by
  cases h with
  | gotByte rd hin => simp [hin]
  | _ => rfl

/-- The output grows only in PUTC, by one byte (R340). -/
theorem Effect.output_cases (h : Effect s i t) :
    t.output = s.output ∨ ∃ ra, i = .putc ra ∧ t.output = s.output ++ [(s.reg ra).setWidth 8] := by
  cases h with
  | putByte ra => exact .inr ⟨ra, rfl, by simp [extractLsb'_zero_eight]⟩
  | _ => exact .inl rfl

/-- The input shrinks only in GETC, by its first byte (R341). -/
theorem Effect.input_cases (h : Effect s i t) :
    t.input = s.input ∨ ∃ rd b, i = .getc rd ∧ s.input = b :: t.input := by
  cases h with
  | gotByte rd hin => exact .inr ⟨rd, _, rfl, hin⟩
  | _ => exact .inl rfl

end

/-- An unassigned opcode touches no stream (R110, R405). -/
theorem State.illegal_streams (s : State) (w : Word) :
    (s.illegal w).inputRead = s.inputRead ∧ (s.illegal w).input = s.input
      ∧ (s.illegal w).output = s.output := by
  obtain ⟨-, h⟩ | ⟨-, h⟩ := s.illegal_cases w <;> simp [h]

/-- Settles O46: by the four ways a step answers, the fetched instruction by its effect. -/
theorem streamsMoveInOrder : Obligations.StreamsMoveInOrder := by
  intro s t h
  obtain ⟨-, rfl⟩ | ⟨-, -, rfl⟩ | ⟨w, r, -, -, -, rfl⟩ | ⟨i, hi, hexec⟩ := step_cases h
  · exact ⟨rfl, .inl rfl, .inl rfl⟩
  · exact ⟨rfl, .inl rfl, .inl rfl⟩
  · obtain ⟨hread, hin, hout⟩ := s.advance.illegal_streams w
    exact ⟨congrArg₂ _ hread hin, .inl hout, .inl hin⟩
  · have he := exec_effect hexec
    refine ⟨he.inputRead_append_input, he.output_cases.imp_right ?putc, he.input_cases.imp_right ?getc⟩
    case putc =>
      rintro ⟨ra, rfl, hout⟩
      exact ⟨ra, hi, hout⟩
    case getc =>
      rintro ⟨rd, b, rfl, hin⟩
      exact ⟨rd, b, hi, hin⟩

end Sys2Proof.Machine
end

section
/-! CALL and RET (R320, R321), the end of a run (R347, R413) and reset (R39, R150, R440). -/

namespace Sys2Proof.Machine

/-! ### CALL and RET -/

/-- Settles O42: CALL reads its register after R15 is written, so that CALL R15 goes on with `npc`. -/
theorem callSavesAndReturnRestores : Obligations.CallSavesAndReturnRestores :=
  fun s ra => ⟨⟨_, rfl, s.reg_setReg_same Reg.lr s.pc, fun _ hq => s.reg_setReg_ne s.pc hq,
    s.reg_setReg Reg.lr ra s.pc, rfl, fun _ => rfl, rfl, rfl, rfl, rfl, rfl, rfl, rfl, rfl⟩, rfl⟩

/-! ### The end of a run -/

/-- A run goes on from where its first steps came to. -/
theorem run_add_of_run_eq_next {M : Host.Core} {s t : M.State} {k : Nat} (h : M.run k s = .next t)
    (n : Nat) : M.run (k + n) s = M.run n t := by
  induction k generalizing s with
  | zero =>
    cases h
    rw [Nat.zero_add]
  | succ k ih =>
    rw [Nat.succ_add, Host.Core.run]
    rw [Host.Core.run] at h
    cases hstep : M.step s with
    | next u =>
      rw [hstep] at h
      exact ih h
    | fault | refused =>
      rw [hstep] at h
      cases h

/-- A run that has come to a HALTED state is there after any more steps (R346). -/
theorem run_add_of_halted {s t : State} {k : Nat} (h : core.run k s = .next t)
    (hhalted : t.runState = .halted) (n : Nat) : core.run (k + n) s = .next t :=
  (run_add_of_run_eq_next h n).trans (run_of_step_eq_next_self (M := core) (step_of_halted hhalted) n)

/-- Settles O51: after the steps of both runs together each is still at its own end. -/
theorem theEndOfARunIsUnique : Obligations.TheEndOfARunIsUnique := by
  rintro s t u ⟨⟨k, hk⟩, htHalted, -⟩ ⟨⟨n, hn⟩, huHalted, -⟩
  have ht : core.run (k + n) s = .next t := run_add_of_halted hk htHalted n
  have hu : core.run (k + n) s = .next u := Nat.add_comm n k ▸ run_add_of_halted hn huHalted k
  exact Host.Outcome.next.inj (ht.symm.trans hu)

/-! ### Reset -/

/-- Under the default `CC_RESET` reset clears the flags (R39, R440). -/
theorem State.rst_cc_of_atDefaults {s : State} (h : s.cfg.AtDefaults) :
    s.rst.cc = ⟨false, false, false⟩ := by
  obtain ⟨-, -, -, -, -, hreset, -⟩ := h
  exact hreset

/-- Where `rst` is 1 the unit's flags take `CC_RESET`, whatever `cc_we` (R150, log entry 27). -/
theorem ccuNext_of_rst {i : CcuInput} (h : i.rst = true) (c : Config) (cc : CC) :
    ccuNext c cc i = c.ccReset :=
  if_pos h

/-- Settles O60: `State.resetFrom` and `State.reset` are resets of a machine at power-on. -/
theorem resetValues : Obligations.ResetValues :=
  ⟨fun _ => ⟨rfl, rfl, rfl, rfl, fun _ => rfl, fun _ => rfl, rfl⟩, fun _ => State.rst_cc_of_atDefaults,
    fun c cc _ hrst _ => ccuNext_of_rst hrst c cc,
    fun c regs m hc => ⟨State.rst_cc_of_atDefaults (s := State.powerOn c regs m) hc, rfl, rfl, rfl⟩,
    rfl, rfl, rfl, rfl⟩

end Sys2Proof.Machine
end
